-- ==== Sys2Proof/Word.lean ====
section
/-! DEFINITION. The word types of the EOS_Switch offload block (spec/00_scope.md rule R8: IPv4 addresses 32 bits, MAC
addresses 48 bits, ports 16 bits, host registers 32 bits). Every value is unsigned (R9). -/

namespace Sys2Proof

/-- A byte of the packet buffer (R36). -/
abbrev Byte := BitVec 8

/-- A 16-bit value: a port, an Ethernet type, a checksum word, IP_ID, a TTL in seconds (R8). -/
abbrev Half := BitVec 16

/-- A host register (R8, R21, R23). -/
abbrev Word := BitVec 32

/-- An IPv4 address `a.b.c.d` as the number with `a` in its top byte (R10). -/
abbrev IPv4 := BitVec 32

/-- A MAC address with its first byte on the wire in the top byte (R10). -/
abbrev Mac := BitVec 48

end Sys2Proof
end

