-- ==== Sys2Proof/Syntax.lean ====
section
/-! DEFINITION. The commands of the EOS-NOB command set, one constructor per row of spec/opcode_table.json
(spec/30_encoding.md rule R82). -/

namespace Sys2Proof

/-- The table a socket command works on, selected by the T bit (R81): T = 0 selects UDP, T = 1 selects TCP. -/
inductive Table where
  | udp
  | tcp
deriving DecidableEq, Repr

/-- The commands (R82). The only operand a command word carries is T, and only for the socket commands (R81, R84); every
other operand is read from ARG0..ARG3 when the command runs (R85). -/
inductive Instr where
  | nop
  | reset
  | bufRd
  | bufWr
  | bufRelease
  | csumInit
  | csumAdd
  | csumAddw
  | csumFinal
  | csum
  | arpAdd
  | arpGet
  | arpResolve
  | arpTick
  | arpStat
  | arpSlot
  | classify
  | arpReq
  | ipTxHdr
  | portOpen (t : Table)
  | portClose (t : Table)
  | portFind (t : Table)
  | sessAdd (t : Table)
  | sessRemove (t : Table)
  | sessGet (t : Table)
  | sessLookup (t : Table)
  | tcpSet
  | tcpGet
deriving DecidableEq, Repr

end Sys2Proof
end

