-- ==== Sys2Proof/Decode.lean ====
section
/-! DEFINITION. Decoding and encoding of command words (spec/30_encoding.md rules R81-R83, R99). There is one command length,
one 32-bit word, and one format. -/

namespace Sys2Proof

/-- A row of the opcode map (R82): a word `w` selects it when `w &&& mask = mat`. `make` gives the command from T. -/
structure OpcodeRow where
  mat : Word
  mask : Word
  make : Table → Instr

/-- The opcode map of R82, in its order; `match` and `mask` apply to the whole command word. -/
def opcodeRows : List OpcodeRow := [
  ⟨0x00000000#32, 0xFFFFFFFF#32, fun _ => .nop⟩,
  ⟨0x00000001#32, 0xFFFFFFFF#32, fun _ => .reset⟩,
  ⟨0x00000010#32, 0xFFFFFFFF#32, fun _ => .bufRd⟩,
  ⟨0x00000011#32, 0xFFFFFFFF#32, fun _ => .bufWr⟩,
  ⟨0x00000012#32, 0xFFFFFFFF#32, fun _ => .bufRelease⟩,
  ⟨0x00000020#32, 0xFFFFFFFF#32, fun _ => .csumInit⟩,
  ⟨0x00000021#32, 0xFFFFFFFF#32, fun _ => .csumAdd⟩,
  ⟨0x00000022#32, 0xFFFFFFFF#32, fun _ => .csumAddw⟩,
  ⟨0x00000023#32, 0xFFFFFFFF#32, fun _ => .csumFinal⟩,
  ⟨0x00000024#32, 0xFFFFFFFF#32, fun _ => .csum⟩,
  ⟨0x00000030#32, 0xFFFFFFFF#32, fun _ => .arpAdd⟩,
  ⟨0x00000031#32, 0xFFFFFFFF#32, fun _ => .arpGet⟩,
  ⟨0x00000032#32, 0xFFFFFFFF#32, fun _ => .arpResolve⟩,
  ⟨0x00000033#32, 0xFFFFFFFF#32, fun _ => .arpTick⟩,
  ⟨0x00000034#32, 0xFFFFFFFF#32, fun _ => .arpStat⟩,
  ⟨0x00000035#32, 0xFFFFFFFF#32, fun _ => .arpSlot⟩,
  ⟨0x00000040#32, 0xFFFFFFFF#32, fun _ => .classify⟩,
  ⟨0x00000041#32, 0xFFFFFFFF#32, fun _ => .arpReq⟩,
  ⟨0x00000042#32, 0xFFFFFFFF#32, fun _ => .ipTxHdr⟩,
  ⟨0x00000050#32, 0xFFFFFEFF#32, .portOpen⟩,
  ⟨0x00000051#32, 0xFFFFFEFF#32, .portClose⟩,
  ⟨0x00000052#32, 0xFFFFFEFF#32, .portFind⟩,
  ⟨0x00000053#32, 0xFFFFFEFF#32, .sessAdd⟩,
  ⟨0x00000054#32, 0xFFFFFEFF#32, .sessRemove⟩,
  ⟨0x00000055#32, 0xFFFFFEFF#32, .sessGet⟩,
  ⟨0x00000056#32, 0xFFFFFEFF#32, .sessLookup⟩,
  ⟨0x00000157#32, 0xFFFFFFFF#32, fun _ => .tcpSet⟩,
  ⟨0x00000158#32, 0xFFFFFFFF#32, fun _ => .tcpGet⟩]

/-- R82: the row test `(w & mask) == match`. -/
def OpcodeRow.selects (r : OpcodeRow) (w : Word) : Bool := w &&& r.mask == r.mat

/-- The table T (bit 8) selects (R81). -/
def tableOf (w : Word) : Table := if w.getLsbD 8 then .tcp else .udp

/-- Why a word is illegal (R83). Every one of them raises the same code, ILLEGAL; the name is only the decoder's (log 18). -/
inductive Illegal where
  /-- One of bits 31:9 is set. -/
  | reservedBits
  /-- The OP value is not in the table. -/
  | unassignedOp
  /-- T = 1 with a non-socket OP, or T = 0 with TCP_SET or TCP_GET. -/
  | tableBit
deriving DecidableEq, Repr

/-- The ground of R83 on which a word that selects no row is rejected. -/
def illegalGround (w : Word) : Illegal :=
  if w >>> 9 ≠ 0#32 then .reservedBits
  else if opcodeRows.any (fun r => r.mat &&& 0xFF#32 == w &&& 0xFF#32) then .tableBit
  else .unassignedOp

/-- R82, R83: the command a word stands for, or the ground on which it is illegal. Total on every word. -/
def decode (w : Word) : Except Illegal Instr :=
  match opcodeRows.find? (fun r => r.selects w) with
  | some r => .ok (r.make (tableOf w))
  | none => .error (illegalGround w)

/-- T as it stands in the command word (R81). -/
def tableBits : Table → Word
  | .udp => 0x000#32
  | .tcp => 0x100#32

/-- The command word of a command (R82). -/
def encode : Instr → Word
  | .nop => 0x00#32
  | .reset => 0x01#32
  | .bufRd => 0x10#32
  | .bufWr => 0x11#32
  | .bufRelease => 0x12#32
  | .csumInit => 0x20#32
  | .csumAdd => 0x21#32
  | .csumAddw => 0x22#32
  | .csumFinal => 0x23#32
  | .csum => 0x24#32
  | .arpAdd => 0x30#32
  | .arpGet => 0x31#32
  | .arpResolve => 0x32#32
  | .arpTick => 0x33#32
  | .arpStat => 0x34#32
  | .arpSlot => 0x35#32
  | .classify => 0x40#32
  | .arpReq => 0x41#32
  | .ipTxHdr => 0x42#32
  | .portOpen t => tableBits t ||| 0x50#32
  | .portClose t => tableBits t ||| 0x51#32
  | .portFind t => tableBits t ||| 0x52#32
  | .sessAdd t => tableBits t ||| 0x53#32
  | .sessRemove t => tableBits t ||| 0x54#32
  | .sessGet t => tableBits t ||| 0x55#32
  | .sessLookup t => tableBits t ||| 0x56#32
  | .tcpSet => 0x157#32
  | .tcpGet => 0x158#32

/-- The instruction the decoder reads from an opcode-table row's word. The command word reaches the block as one 32-bit
register write (R62, R81): there are no bytes to order, and every bit above `nbits` is 0. -/
def decodeTableWord (nbits w : Nat) : Option Instr :=
  match decode (BitVec.ofNat 32 (w % 2 ^ nbits)) with
  | .ok i => some i
  | .error _ => none

end Sys2Proof
end

