-- ==== Sys2Proof/Config.lean ====
section
/-! DEFINITION. What an implementation of the block fixes (spec/00_scope.md rule R7, spec/93_implementation_defined.md U7, U8)
and the values the spec leaves free (U2, U4). -/

namespace Sys2Proof
namespace Config

/-- The parameters a running block reads as constants (R7, U7, U8). State carries them, and no step changes them, so that a
statement about every state is a statement about every choice of them. DESIGN CHOICE (log 1), safe. -/
structure Fixed where
  /-- TTL in seconds given to an ARP entry on insert or refresh (R7), 1..65535. -/
  arpTtlMax : Half
  /-- Value of the IPv4 TTL field of every outgoing header (R7), 1..255. -/
  ipTtl : Byte
  /-- Packet buffer size in bytes (R7), 42..65535. -/
  bufSize : Nat
  /-- Where the platform places the 256-byte register block in the host's address space (R68, U7). -/
  base : Nat
deriving DecidableEq, Repr

/-- All the parameters of R7 (and BASE, R68). The five capacities are the lengths of State's tables. -/
structure Params extends Fixed where
  /-- ARP cache capacity, 1..254. -/
  nArp : Nat
  /-- UDP session table capacity, 1..254. -/
  nUdp : Nat
  /-- TCP session table capacity, 1..254. -/
  nTcp : Nat
  /-- UDP application table capacity, 1..254. -/
  nAppUdp : Nat
  /-- TCP application table capacity, 1..254. -/
  nAppTcp : Nat
deriving DecidableEq, Repr

/-- The defaults of R7, "the value this spec takes for the block". BASE has no default in the spec: 0 is a DESIGN CHOICE
(log 9). -/
def Params.default : Params where
  arpTtlMax := 30#16
  ipTtl := 64#8
  bufSize := 1518
  base := 0
  nArp := 5
  nUdp := 4
  nTcp := 4
  nAppUdp := 4
  nAppTcp := 4

/-- U4: what a byte of BUF holds after a power-on until something writes it: "any value per byte, fixed until written".
The first argument numbers the power-on, the second is the offset. A free value: no proof can see it (log 4), safe. -/
opaque powerOnByte : Nat → Nat → Byte

/-- U2: what a host read of RES0..RES3, CSUM_ACC or IP_ID returns while BUSY = 1: "any value (32 bits, unconstrained)".
The argument numbers the read. A free value: no proof can see it (log 5), safe. -/
opaque busyRead : Nat → Word

end Config
end Sys2Proof
end

