-- ==== Sys2Proof/Machine/State.lean ====
section
/-! DEFINITION. The state of the block as plain data (spec/10_state.md rules R20-R40), the reasons a step can stop, and the
state after power-on reset (rules R39, R300). -/

namespace Sys2Proof.Machine

/-- Result codes, as stored in STATUS.RC (R87). Codes 4-7 and 11-15 are never produced (R87, U11), so they have no
constructor (log 17). -/
inductive ResultCode where
  /-- 0 OK, an outcome: the command did what it names. -/
  | ok
  /-- 1 MISS, an outcome: a lookup found nothing, or a handle names no in-use slot. -/
  | miss
  /-- 2 FULL, an outcome: a table had no free slot. -/
  | full
  /-- 3 EXISTS, an outcome: the key is already present. -/
  | existing
  /-- 8 BAD_OPERAND, an error: an operand is out of range. -/
  | badOperand
  /-- 9 ILLEGAL, an error: the command word is reserved. -/
  | illegal
  /-- 10 OWNED, an error: the command needs the buffer and OWN is not FREE. -/
  | owned
deriving DecidableEq, Repr

/-- Packet buffer ownership (R25). The value 3 is never produced (R25, U11), so it has no constructor (log 17). -/
inductive Own where
  | free
  | rx
  | tx
deriving DecidableEq, Repr

/-- An ARP cache slot (R30): live when `ip ≠ 0`, empty when `ip = 0`. -/
structure ArpSlot where
  ip : IPv4
  mac : Mac
  ttl : Half
deriving DecidableEq, Repr

/-- The empty ARP slot (R30, R39). -/
def ArpSlot.empty : ArpSlot := ⟨0#32, 0#48, 0#16⟩

/-- A UDP session slot, and the part a TCP slot shares with it (R31, R32). Slot `i` is in use exactly when `socket` is `i`. -/
structure Session where
  socket : Byte
  remoteIp : IPv4
  localPort : Half
  remotePort : Half
  timeoutMs : Word
  closePort : Bool
deriving DecidableEq, Repr

/-- The connection states of a TCP slot (R96). The codes 5, 6, 7 are never stored (R96, R240), so they have no constructor. -/
inductive ConnState where
  | handshakeOutgoing
  | handshakeIncoming
  | connected
  | terminationOutgoing
  | terminationIncoming
deriving DecidableEq, Repr

/-- A TCP session slot (R32). -/
structure TcpSession extends Session where
  lastSeq : Word
  lastAck : Word
  connState : ConnState
  pendingAck : Bool
  pendingPush : Bool
deriving DecidableEq, Repr

/-- An application (port registration) slot (R33): empty when `port = 0`. -/
structure App where
  port : Half
  timeoutMs : Word
  tag : Word
deriving DecidableEq, Repr

/-- The empty application slot (R33, R39). -/
def App.empty : App := ⟨0#16, 0#32, 0#32⟩

/-- A free session slot as power-on leaves it: `socket` holds the sentinel, the table's capacity (R39). The other fields are
unspecified and unobservable (R38): 0 is a DESIGN CHOICE (log 6). -/
def Session.free (capacity : Nat) : Session := ⟨BitVec.ofNat 8 capacity, 0#32, 0#16, 0#16, 0#32, false⟩

/-- A free TCP slot as power-on leaves it (R39; log 6). -/
def TcpSession.free (capacity : Nat) : TcpSession :=
  ⟨Session.free capacity, 0#32, 0#32, .handshakeOutgoing, false, false⟩

/-- The bytes of BUF written since power-on, as (offset, byte) pairs with strictly rising offsets. An unlisted offset has
not been written since power-on: it holds its free power-on value (R36, U4; log 4). -/
abbrev Memory := List Host.Cell

/-- One host access to the register space (R60, R80): the address in the host's address space and the size in bytes. -/
inductive HostAccess where
  | read (addr size : Nat)
  | write (addr size : Nat) (value : Word)
deriving DecidableEq, Repr

/-- One coming turn of the machine (R15, U6, R282): the outside world's input as plain data (log 2, log 11). -/
inductive Input where
  /-- The host makes an access. -/
  | host (a : HostAccess)
  /-- The block takes its turn: it executes the pending command, if there is one. -/
  | blockRuns
  /-- Power goes off and comes on again. -/
  | powerCycle
deriving DecidableEq, Repr

/-- The state of the block: everything R20 lists, the constants of the implementation, and four fields of the model's own. -/
structure State where
  /-- Operand registers ARG0..ARG3 (R21). -/
  arg0 : Word
  arg1 : Word
  arg2 : Word
  arg3 : Word
  /-- CMD, the last accepted command word (R22); while `busy`, the pending command (R40). -/
  cmd : Word
  /-- STATUS.BUSY: a command is pending (R24, R40). -/
  busy : Bool
  /-- STATUS.RC (R24, R26). -/
  rc : ResultCode
  /-- STATUS.OWN (R25). -/
  own : Own
  /-- STATUS.OVR (R24, R275). -/
  ovr : Bool
  /-- Result registers RES0..RES3 (R23). -/
  res0 : Word
  res1 : Word
  res2 : Word
  res3 : Word
  /-- Configuration registers (R27). -/
  localMac : Mac
  localIp : IPv4
  netmask : Word
  gateway : IPv4
  /-- IP identification counter (R28). -/
  ipId : Half
  /-- Checksum accumulator (R29). -/
  csumAcc : Word
  /-- ARP cache (R30); N_ARP is its length. -/
  arp : List ArpSlot
  /-- UDP session table (R31); N_UDP is its length. -/
  udp : List Session
  /-- TCP session table (R32); N_TCP is its length. -/
  tcp : List TcpSession
  /-- UDP application table (R33); N_APP_UDP is its length. -/
  appUdp : List App
  /-- TCP application table (R33); N_APP_TCP is its length. -/
  appTcp : List App
  /-- The packet buffer BUF (R36). -/
  buf : Memory
  /-- The constants of the implementation (R7, R68; log 1). -/
  fixed : Config.Fixed
  /-- The model's own: the coming turns (log 2). -/
  inputs : List Input
  /-- The model's own: what the last host read returned (log 7). -/
  readData : Option Word
  /-- The model's own: numbers the reads whose value the spec leaves free (U2; log 5). -/
  freeReads : Nat
  /-- The model's own: numbers the power-ons, each with its own free BUF contents (U4; log 4). -/
  powerOns : Nat
deriving DecidableEq, Repr

/-- Why the machine stops with a fault. -/
inductive Fault where
  /-- Raised by a host write to ARG0..ARG3, MAC_HI, MAC_LO, LOCAL_IP, NETMASK or GATEWAY while BUSY = 1 (R303, U1: "the
  model refuses the write and flags the host program as outside the contract"). Safe: the hardware goes on in some way no rule
  describes (log 10). -/
  | hostWriteWhileBusy
deriving DecidableEq, Repr

/-- Why the machine refuses a step. -/
inductive Refusal where
  /-- Raised by exec's arm of a command that has no meaning yet; no arm raises it. Safe. -/
  | notModelled (mnemonic : String)
  /-- Raised by a host access that is not an aligned 32-bit word (R64, U3: "refuse: the model does not take the step"). Safe
  (log 9). -/
  | hostAccessNotAWord
  /-- Raised by a host access whose address lies outside the 256-byte register block: it is not an access to this block (R60,
  R68). Safe (log 9). -/
  | outsideRegisterBlock
deriving DecidableEq, Repr

/-- The state after power-on reset (R39, R300) of a block built with the parameters `p`. BUF lists nothing: every byte holds
its free power-on value (R301, U4). -/
def State.resetWith (p : Config.Params) : State where
  arg0 := 0#32
  arg1 := 0#32
  arg2 := 0#32
  arg3 := 0#32
  cmd := 0#32
  busy := false
  rc := .ok
  own := .free
  ovr := false
  res0 := 0#32
  res1 := 0#32
  res2 := 0#32
  res3 := 0#32
  localMac := 0#48
  localIp := 0#32
  netmask := 0#32
  gateway := 0#32
  ipId := 0#16
  csumAcc := 0#32
  arp := List.replicate p.nArp ArpSlot.empty
  udp := List.replicate p.nUdp (Session.free p.nUdp)
  tcp := List.replicate p.nTcp (TcpSession.free p.nTcp)
  appUdp := List.replicate p.nAppUdp App.empty
  appTcp := List.replicate p.nAppTcp App.empty
  buf := []
  fixed := p.toFixed
  inputs := []
  readData := none
  freeReads := 0
  powerOns := 0

/-- The state after power-on reset with the default parameters of R7. -/
def State.reset : State := State.resetWith Config.Params.default

end Sys2Proof.Machine
end

