-- ==== Sys2Proof/Machine/Ops.lean ====
section
/-! DEFINITION. The named operations every command is written over: ending a command (spec/60_exceptions.md rules R270-R272),
searching a table (spec/00_scope.md rule R11), the bytes of BUF and the big-endian accesses to it (R11, spec/20_memory.md rules
R61, R67), the reset process (spec/70_reset_and_hazards.md rules R300, R301) and the latching of a command word (R40). -/

namespace Sys2Proof.Machine

/-! ### Ending a command -/

/-- R272, `complete C`: the command's writes stand, RC becomes the outcome code, and BUSY returns to 0 (R270). -/
def complete (c : ResultCode) (s : State) : Host.Outcome State Fault Refusal :=
  .next { s with rc := c, busy := false }

/-- R271, `raise E`, the block's one exception entry: `s` is the snapshot taken when the command started, so that every write
the command made is discarded and only RC differs; BUSY returns to 0 (R270). There is no trap entry and no return (R277). -/
def raise (e : ResultCode) (s : State) : Host.Outcome State Fault Refusal :=
  .next { s with rc := e, busy := false }

/-! ### Broadcast addresses and searching -/

/-- R10: BCAST_MAC, `ff:ff:ff:ff:ff:ff`. -/
def bcastMac : Mac := 0xFFFFFFFFFFFF#48

/-- R10: BCAST_IP, `255.255.255.255`. -/
def bcastIp : IPv4 := 0xFFFFFFFF#32

/-- R11: `least i such that P(i)` among `0 .. n-1`, or none. -/
def least (n : Nat) (p : Nat → Bool) : Option Nat := (List.range n).find? p

/-- An index, count or length as a 32-bit register value. -/
def natWord (n : Nat) : Word := BitVec.ofNat 32 n

/-! ### The bytes of BUF -/

/-- The byte last written at `a` since power-on, if any. -/
def Memory.get (m : Memory) (a : Nat) : Option Byte :=
  match m with
  | [] => none
  | (x, c) :: rest => if a = x then some c else Memory.get rest a

/-- Write one byte, keeping the offsets strictly rising. -/
def Memory.set (m : Memory) (a : Nat) (b : Byte) : Memory :=
  match m with
  | [] => [(a, b)]
  | (x, c) :: rest =>
    if a < x then (a, b) :: (x, c) :: rest
    else if a = x then (a, b) :: rest
    else (x, c) :: Memory.set rest a b

/-- Write consecutive bytes from offset `a` on. -/
def Memory.setAll (m : Memory) (a : Nat) (bs : List Byte) : Memory :=
  match bs with
  | [] => m
  | b :: rest => Memory.setAll (Memory.set m a b) (a + 1) rest

/-- The canonical form: offsets strictly rising. What an unlisted offset holds is no listed byte (it is "not written since
power-on"), so no entry can repeat it, and equal contents are equal lists (log 4). -/
def Memory.wf (m : Memory) : Bool :=
  match m with
  | [] => true
  | [_] => true
  | (x, _) :: (y, c) :: rest => decide (x < y) && Memory.wf ((y, c) :: rest)

/-- BUF[a] (R36). A byte nothing has written since power-on holds its free power-on value, the same at every read (U4, R130). -/
def State.bufByte (s : State) (a : Nat) : Byte :=
  (Memory.get s.buf a).getD (Config.powerOnByte s.powerOns a)

/-- BUF[off] .. BUF[off+n-1], in order. -/
def State.bufBytes (s : State) (off n : Nat) : List Byte :=
  (List.range n).map (fun k => s.bufByte (off + k))

/-! ### Big-endian accesses (R11, R61) -/

/-- The number a byte sequence spells, most significant byte first. -/
def beValue (bs : List Byte) : Nat := bs.foldl (fun acc b => acc * 256 + b.toNat) 0

/-- The `n` bytes of `v[8n-1:0]`, most significant first. -/
def beBytes (n v : Nat) : List Byte :=
  (List.range n).map (fun k => BitVec.ofNat 8 (v >>> (8 * (n - 1 - k))))

/-- R11, `MemRead(off, n)`: the `n`-byte big-endian value at `off`. -/
def State.memRead (s : State) (off n : Nat) : Nat := beValue (s.bufBytes off n)

/-- R11, `MemWrite(off, n, v)`: the `n` bytes of `v[8n-1:0]`, most significant byte at `off`. -/
def State.memWrite (s : State) (off n v : Nat) : State :=
  { s with buf := Memory.setAll s.buf off (beBytes n v) }

/-- The writes `MemWrite(offset, length, value)` of a table of fields, in order (the field tables of R195 and R207). -/
def Memory.writeFields (m : Memory) (fields : List (Nat × Nat × Nat)) : Memory :=
  match fields with
  | [] => m
  | (off, n, v) :: rest => Memory.writeFields (Memory.setAll m off (beBytes n v)) rest

/-- `MemRead(off, 1)` as an 8-bit value. -/
def State.read8 (s : State) (off : Nat) : Byte := BitVec.ofNat 8 (s.memRead off 1)

/-- `MemRead(off, 2)` as a 16-bit value. -/
def State.read16 (s : State) (off : Nat) : Half := BitVec.ofNat 16 (s.memRead off 2)

/-- `MemRead(off, 4)` as a 32-bit value. -/
def State.read32 (s : State) (off : Nat) : Word := BitVec.ofNat 32 (s.memRead off 4)

/-- `MemRead(off, 6)` as a 48-bit value. -/
def State.read48 (s : State) (off : Nat) : Mac := BitVec.ofNat 48 (s.memRead off 6)

/-- R67: every byte of the range lies in `0 .. BUF_SIZE-1`, in unbounded arithmetic. -/
def State.inBuf (s : State) (off n : Nat) : Bool := decide (off + n ≤ s.fixed.bufSize)

/-! ### Reset (R300, R301) -/

/-- R300, what both resets do: every piece of state but BUF goes to its value of R39. A session slot's fields other than
`socket` are unspecified and unobservable afterwards (R38, R301): they keep their values (log 6). The constants of the
implementation and the model's own fields are not state the block resets. -/
def State.clear (s : State) : State :=
  { s with
    arg0 := 0#32, arg1 := 0#32, arg2 := 0#32, arg3 := 0#32
    cmd := 0#32, busy := false
    res0 := 0#32, res1 := 0#32, res2 := 0#32, res3 := 0#32
    rc := .ok, own := .free, ovr := false
    localMac := 0#48, localIp := 0#32, netmask := 0#32, gateway := 0#32
    ipId := 0#16, csumAcc := 0#32
    arp := s.arp.map (fun _ => ArpSlot.empty)
    udp := s.udp.map (fun e => { e with socket := BitVec.ofNat 8 s.udp.length })
    tcp := s.tcp.map (fun e => { e with socket := BitVec.ofNat 8 s.tcp.length })
    appUdp := s.appUdp.map (fun _ => App.empty)
    appTcp := s.appTcp.map (fun _ => App.empty) }

/-- R301, R282: power-off and power-on again. As `clear`, and every BUF byte is unspecified anew (U4; log 11). -/
def State.powerCycle (s : State) : State :=
  { s.clear with buf := [], powerOns := s.powerOns + 1 }

/-! ### The pending command -/

/-- R40, R270: an accepted CMD write latches the command word and sets BUSY. -/
def State.latch (s : State) (w : Word) : State := { s with cmd := w, busy := true }

/-- R40: the latched, not yet executed command word, if there is one. -/
def State.pending (s : State) : Option Word := if s.busy then some s.cmd else none

end Sys2Proof.Machine
end

