-- ==== Sys2Proof/Machine/Operands.lean ====
section
/-! DEFINITION. Operand assembly (spec/30_encoding.md rules R84, R85): the slices of ARG0..ARG3 the commands read,
zero-extended, and the halves of the values that span two registers. No operand is sign-extended, scaled or shifted. -/

namespace Sys2Proof.Machine

/-- Bits 31:16 of a register. -/
def highHalf (w : Word) : Half := w.extractLsb' 16 16

/-- Bits 15:0 of a register. -/
def lowHalf (w : Word) : Half := w.extractLsb' 0 16

/-- Two 16-bit values in one register, the first in bits 31:16. -/
def pairWord (hi lo : Half) : Word := hi ++ lo

/-- `zext_32` of a 16-bit value. -/
def halfWord (h : Half) : Word := h.setWidth 32

/-- `zext_32` of one bit. -/
def bitWord (b : Bool) : Word := if b then 1#32 else 0#32

/-- `mac[47:16]` (R85, R86). -/
def macHigh (m : Mac) : Word := m.extractLsb' 16 32

/-- `mac[15:0]` (R85, R86). -/
def macLow (m : Mac) : Half := m.extractLsb' 0 16

/-- A MAC from its two register parts, `{hi, lo}` (R85). -/
def macOf (hi : Word) (lo : Half) : Mac := hi ++ lo

/-- ARP_ADD's MAC operand: `{ARG1, ARG2[15:0]}` (R85, R165). -/
def State.argMac (s : State) : Mac := macOf s.arg1 (lowHalf s.arg2)

/-- The local port of SESS_ADD and SESS_LOOKUP: ARG1[31:16] (R85). -/
def State.argLocalPort (s : State) : Half := highHalf s.arg1

/-- The remote port of SESS_ADD and SESS_LOOKUP: ARG1[15:0] (R85). -/
def State.argRemotePort (s : State) : Half := lowHalf s.arg1

/-- SESS_ADD's close_port_on_termination: ARG3[0] (R85). -/
def State.argClosePort (s : State) : Bool := s.arg3.getLsbD 0

/-- IP_TX_HDR's protocol: ARG1[7:0] (R85). -/
def State.argProtocol (s : State) : Byte := s.arg1.extractLsb' 0 8

/-- IP_TX_HDR's payload length: ARG1[31:16] (R85). -/
def State.argPayloadLen (s : State) : Nat := (highHalf s.arg1).toNat

/-- The port operand of PORT_OPEN, PORT_CLOSE and PORT_FIND: ARG0, when it is neither 0 nor above 0xFFFF (R85, R233). -/
def State.argPort (s : State) : Option Half :=
  if s.arg0 = 0#32 ∨ 0xFFFF < s.arg0.toNat then none else some (lowHalf s.arg0)

/-- R96: the connection state a 3-bit code stands for; the codes 5, 6, 7 are reserved. -/
def ConnState.ofCode (c : BitVec 3) : Option ConnState :=
  match c.toNat with
  | 0 => some .handshakeOutgoing
  | 1 => some .handshakeIncoming
  | 2 => some .connected
  | 3 => some .terminationOutgoing
  | 4 => some .terminationIncoming
  | _ => none

/-- TCP_SET's connection_state: ARG3[2:0] (R85), if it is not a reserved code. -/
def State.argConnState (s : State) : Option ConnState := ConnState.ofCode (s.arg3.extractLsb' 0 3)

/-- The width operand of BUF_RD and BUF_WR: ARG1, when it is 1, 2 or 4 (R85, R130). -/
def State.argWidth (s : State) : Option Nat :=
  if s.arg1 = 1#32 ∨ s.arg1 = 2#32 ∨ s.arg1 = 4#32 then some s.arg1.toNat else none

end Sys2Proof.Machine
end

