-- ==== Sys2Proof/Machine/Flags.lean ====
section
/-! DEFINITION. The status register, the result codes and the flag words the commands return (spec/10_state.md rules R24-R26,
spec/30_encoding.md rules R86, R87, R96, spec/44_dispatcher.md rule R191), and the constant CAPS registers (R35). -/

namespace Sys2Proof.Machine

/-- R87: the code STATUS.RC holds. -/
def ResultCode.code (c : ResultCode) : BitVec 4 :=
  match c with
  | .ok => 0#4
  | .miss => 1#4
  | .full => 2#4
  | .existing => 3#4
  | .badOperand => 8#4
  | .illegal => 9#4
  | .owned => 10#4

/-- R87, R14: the error codes, after which the command had no effect but RC. -/
def ResultCode.isError (c : ResultCode) : Bool :=
  match c with
  | .ok | .miss | .full | .existing => false
  | .badOperand | .illegal | .owned => true

/-- R25: the value STATUS.OWN holds. -/
def Own.code (o : Own) : BitVec 2 :=
  match o with
  | .free => 0#2
  | .rx => 1#2
  | .tx => 2#2

/-- R24: STATUS as the host reads it: OVR in bit 16, OWN in 9:8, RC in 7:4, BUSY in 0; every other bit reads 0. -/
def State.status (s : State) : Word :=
  0#15 ++ BitVec.ofBool s.ovr ++ 0#6 ++ s.own.code ++ s.rc.code ++ 0#3 ++ BitVec.ofBool s.busy

/-- R96: the code of a connection state. -/
def ConnState.code (c : ConnState) : BitVec 3 :=
  match c with
  | .handshakeOutgoing => 0#3
  | .handshakeIncoming => 1#3
  | .connected => 2#3
  | .terminationOutgoing => 3#3
  | .terminationIncoming => 4#3

/-- The word of ARP_RESOLVE's RES0 and IP_TX_HDR's RES2: BCAST in bit 1, HIT in bit 0 (R86, R167, R207). -/
def hitWord (bcast hit : Bool) : Word := 0#30 ++ BitVec.ofBool bcast ++ BitVec.ofBool hit

/-- TCP_GET's RES2: pending_push in bit 5, pending_ack in bit 4, connection_state in 2:0 (R86, R241). -/
def tcpFlagsWord (e : TcpSession) : Word :=
  0#26 ++ BitVec.ofBool e.pendingPush ++ BitVec.ofBool e.pendingAck ++ 0#1 ++ e.connState.code

/-- CLASSIFY's RES0 (R191): IHL in 27:24, BCAST in 22, TCPFLAGS in 21:16, INDEX in 15:8, LOOKUP in 5:4, class in 3:0; every
other bit is 0 (for bits 7:6 see R204 and log 16). -/
def classWord (ihl : BitVec 4) (bc : Bool) (flags : BitVec 6) (index : Byte) (lookup : BitVec 2) (cls : BitVec 4) : Word :=
  0#4 ++ ihl ++ 0#1 ++ BitVec.ofBool bc ++ flags ++ index ++ 0#2 ++ lookup ++ cls

/-- N_ARP. -/
def State.nArp (s : State) : Nat := s.arp.length

/-- R34: N_SESS(T), the capacity of the session table T selects. -/
def State.nSess (s : State) (t : Table) : Nat :=
  match t with
  | .udp => s.udp.length
  | .tcp => s.tcp.length

/-- R34: N_APP(T), the capacity of the application table T selects. -/
def State.nApp (s : State) (t : Table) : Nat :=
  match t with
  | .udp => s.appUdp.length
  | .tcp => s.appTcp.length

/-- R35: CAPS0 = `{8'b0, N_TCP[7:0], N_UDP[7:0], N_ARP[7:0]}`. -/
def State.caps0 (s : State) : Word :=
  0#8 ++ BitVec.ofNat 8 (s.nSess .tcp) ++ BitVec.ofNat 8 (s.nSess .udp) ++ BitVec.ofNat 8 s.nArp

/-- R35: CAPS1 = `{ARP_TTL_MAX[15:0], N_APP_TCP[7:0], N_APP_UDP[7:0]}`. -/
def State.caps1 (s : State) : Word :=
  s.fixed.arpTtlMax ++ BitVec.ofNat 8 (s.nApp .tcp) ++ BitVec.ofNat 8 (s.nApp .udp)

/-- R35: CAPS2 = `{8'b0, IP_TTL[7:0], BUF_SIZE[15:0]}`. -/
def State.caps2 (s : State) : Word := 0#8 ++ s.fixed.ipTtl ++ BitVec.ofNat 16 s.fixed.bufSize

end Sys2Proof.Machine
end

