-- ==== Sys2Proof/Machine/ArpCache.lean ====
section
/-! DEFINITION. The ARP cache (spec/43_arp_cache.md): the table primitives of rules R160-R164, which the dispatcher shares,
and the commands of rules R165-R170. -/

namespace Sys2Proof.Machine

/-- ARP[i] (R30). -/
def State.arpAt (s : State) (i : Nat) : ArpSlot := s.arp.getD i ArpSlot.empty

/-- `ARP[i] <- e`. -/
def State.setArp (s : State) (i : Nat) (e : ArpSlot) : State := { s with arp := s.arp.set i e }

/-- R160 find: the slot holding `ip`, if any; an IP of 0 never matches. -/
def State.arpFind (s : State) (ip : IPv4) : Option Nat :=
  if ip = 0#32 then none else least s.nArp (fun i => (s.arpAt i).ip == ip)

/-- The lowest empty ARP slot, if any (R162). -/
def State.arpFree (s : State) : Option Nat := least s.nArp (fun i => (s.arpAt i).ip == 0#32)

/-- R161 redirect: the gateway's address for an address outside the local subnet. -/
def State.redirect (s : State) (ip : IPv4) : IPv4 :=
  if ip &&& s.netmask ≠ s.localIp &&& s.netmask then s.gateway else ip

/-- R162 insert: refresh or insert. Answers the new state, and the slot for STORED(i) or none for NOTSTORED. A refresh keeps
the stored MAC. -/
def State.arpInsert (s : State) (ip : IPv4) (mac : Mac) : State × Option Nat :=
  if ip = 0#32 then (s, none)
  else match s.arpFind ip with
    | some i => (s.setArp i { s.arpAt i with ttl := s.fixed.arpTtlMax }, some i)
    | none =>
      match s.arpFree with
      | some j => (s.setArp j ⟨ip, mac, s.fixed.arpTtlMax⟩, some j)
      | none => (s, none)

/-- R163 learn: an IP of 0 learns nothing and is tested before redirection (90_conflicts.md C12); a full table makes learning
fail silently. -/
def State.learn (s : State) (ip : IPv4) (mac : Mac) : State :=
  if ip = 0#32 then s else (s.arpInsert (s.redirect ip) mac).1

/-- What R164's resolve answers. -/
structure Resolution where
  hit : Bool
  bcast : Bool
  mac : Mac
  key : IPv4
deriving DecidableEq, Repr

/-- R164 resolve: the destination MAC for an outgoing frame. -/
def State.resolve (s : State) (ip : IPv4) : Resolution :=
  if ip = bcastIp then ⟨false, true, bcastMac, ip⟩
  else
    let key := s.redirect ip
    match s.arpFind key with
    | some i => ⟨true, false, (s.arpAt i).mac, key⟩
    | none => ⟨false, false, bcastMac, key⟩

/-- R165 ARP_ADD. -/
def execArpAdd (s : State) : Host.Outcome State Fault Refusal :=
  if s.arg0 = 0#32 then raise .badOperand s
  else match s.arpInsert s.arg0 s.argMac with
    | (t, some i) => complete .ok { t with res0 := natWord i }
    | (t, none) => complete .full { t with res0 := natWord s.nArp }

/-- R166 ARP_GET. -/
def execArpGet (s : State) : Host.Outcome State Fault Refusal :=
  match s.arpFind s.arg0 with
  | none => complete .miss { s with res0 := natWord s.nArp, res1 := 0#32, res2 := 0#32, res3 := 0#32 }
  | some i =>
    let e := s.arpAt i
    complete .ok { s with
      res0 := natWord i, res1 := macHigh e.mac, res2 := halfWord (macLow e.mac), res3 := halfWord e.ttl }

/-- R167 ARP_RESOLVE. -/
def execArpResolve (s : State) : Host.Outcome State Fault Refusal :=
  let r := s.resolve s.arg0
  complete (if r.hit || r.bcast then .ok else .miss) { s with
    res0 := hitWord r.bcast r.hit, res1 := macHigh r.mac, res2 := halfWord (macLow r.mac), res3 := r.key }

/-- One second for one slot (R168): a live slot's ttl goes down by one, and a slot whose ttl reaches 0 is emptied. -/
def ArpSlot.tick (e : ArpSlot) : ArpSlot :=
  if e.ip = 0#32 then e
  else if e.ttl - 1#16 = 0#16 then ArpSlot.empty
  else { e with ttl := e.ttl - 1#16 }

/-- R168: the slot is evicted by this tick. -/
def ArpSlot.evicted (e : ArpSlot) : Bool := e.ip ≠ 0#32 && e.ttl - 1#16 == 0#16

/-- R168 ARP_TICK: RES0 counts the evicted slots. -/
def execArpTick (s : State) : Host.Outcome State Fault Refusal :=
  complete .ok { s with arp := s.arp.map ArpSlot.tick, res0 := natWord (s.arp.countP ArpSlot.evicted) }

/-- The number of live slots (R169). -/
def State.arpLive (s : State) : Nat := s.arp.countP (fun e => e.ip != 0#32)

/-- R169 ARP_STAT. -/
def execArpStat (s : State) : Host.Outcome State Fault Refusal :=
  complete .ok { s with res0 := bitWord (s.arpLive == s.nArp), res1 := natWord s.arpLive }

/-- R170 ARP_SLOT. -/
def execArpSlot (s : State) : Host.Outcome State Fault Refusal :=
  if s.nArp ≤ s.arg0.toNat then raise .badOperand s
  else
    let e := s.arpAt s.arg0.toNat
    complete .ok { s with
      res0 := e.ip, res1 := macHigh e.mac, res2 := halfWord (macLow e.mac), res3 := halfWord e.ttl }

end Sys2Proof.Machine
end

