-- ==== Sys2Proof/Machine/Buffer.lean ====
section
/-! DEFINITION. The packet buffer commands (spec/41_buffer.md), the host's only path into BUF. -/

namespace Sys2Proof.Machine

/-- The operand checks BUF_RD and BUF_WR share, in the order their rules list them (R130, R131): the width is 1, 2 or 4, and
the range lies in BUF. Answers the offset and the width, or none for BAD_OPERAND. -/
def State.bufOperands (s : State) : Option (Nat × Nat) :=
  match s.argWidth with
  | none => none
  | some w => if s.inBuf s.arg0.toNat w then some (s.arg0.toNat, w) else none

/-- R130 BUF_RD: RES0 is the big-endian value of 1, 2 or 4 bytes, in every OWN state. -/
def execBufRd (s : State) : Host.Outcome State Fault Refusal :=
  match s.bufOperands with
  | none => raise .badOperand s
  | some (off, w) => complete .ok { s with res0 := natWord (s.memRead off w) }

/-- R131 BUF_WR: writes the low 1, 2 or 4 bytes of ARG2 big-endian, in every OWN state. -/
def execBufWr (s : State) : Host.Outcome State Fault Refusal :=
  match s.bufOperands with
  | none => raise .badOperand s
  | some (off, w) => complete .ok (s.memWrite off w s.arg2.toNat)

/-- R132 BUF_RELEASE: OWN becomes FREE. -/
def execBufRelease (s : State) : Host.Outcome State Fault Refusal := complete .ok { s with own := .free }

end Sys2Proof.Machine
end

