-- ==== Sys2Proof/Machine/Checksum.lean ====
section
/-! DEFINITION. The checksum accumulator (spec/42_checksum.md): the arithmetic of rules R140-R142 and the commands of rules
R143-R147. -/

namespace Sys2Proof.Machine

/-- R140 add16: add a 16-bit word to the accumulator with an end-around carry out of bit 31. -/
def add16 (acc : Word) (w : Half) : Word :=
  let sum := acc.toNat + w.toNat
  BitVec.ofNat 32 (sum % 2 ^ 32 + sum / 2 ^ 32)

/-- R141 over a byte sequence: big-endian 16-bit words; an odd trailing byte is the high byte of a zero-padded word. -/
def sumBytes (acc : Word) (bs : List Byte) : Word :=
  match bs with
  | [] => acc
  | [hi] => add16 acc (hi ++ 0#8)
  | hi :: lo :: rest => sumBytes (add16 acc (hi ++ lo)) rest

/-- R141 sum_range: add BUF[off .. off+len-1] to the accumulator. -/
def State.sumRange (s : State) (acc : Word) (off len : Nat) : Word := sumBytes acc (s.bufBytes off len)

/-- R142 fold: `(x & 0xFFFF) + (x >> 16)`. -/
def fold16 (x : Nat) : Nat := x % 2 ^ 16 + x / 2 ^ 16

/-- R142 final: fold twice and complement. -/
def checksumFinal (acc : Word) : Half := BitVec.ofNat 16 (0xFFFF - fold16 (fold16 acc.toNat))

/-- R143 CSUM_INIT: load the accumulator. -/
def execCsumInit (s : State) : Host.Outcome State Fault Refusal := complete .ok { s with csumAcc := s.arg0 }

/-- R144 CSUM_ADD: add a byte range of BUF to the accumulator. -/
def execCsumAdd (s : State) : Host.Outcome State Fault Refusal :=
  if s.inBuf s.arg0.toNat s.arg1.toNat then
    complete .ok { s with csumAcc := s.sumRange s.csumAcc s.arg0.toNat s.arg1.toNat }
  else raise .badOperand s

/-- R145 CSUM_ADDW: add ARG0[15:0] to the accumulator. -/
def execCsumAddw (s : State) : Host.Outcome State Fault Refusal :=
  complete .ok { s with csumAcc := add16 s.csumAcc (lowHalf s.arg0) }

/-- R146 CSUM_FINAL: RES0 is the checksum of the accumulator, which is left unchanged. -/
def execCsumFinal (s : State) : Host.Outcome State Fault Refusal :=
  complete .ok { s with res0 := halfWord (checksumFinal s.csumAcc) }

/-- R147 CSUM: the source's `checksum(bytes, start_value)` in one command. -/
def execCsum (s : State) : Host.Outcome State Fault Refusal :=
  if s.inBuf s.arg0.toNat s.arg1.toNat then
    let acc := s.sumRange s.arg2 s.arg0.toNat s.arg1.toNat
    complete .ok { s with csumAcc := acc, res0 := halfWord (checksumFinal acc) }
  else raise .badOperand s

end Sys2Proof.Machine
end

