-- ==== Sys2Proof/Machine/Control.lean ====
section
/-! DEFINITION. The control commands NOP and RESET (spec/40_control.md). -/

namespace Sys2Proof.Machine

/-- R120 NOP: nothing but RC = OK. -/
def execNop (s : State) : Host.Outcome State Fault Refusal := complete .ok s

/-- R121 RESET: every register and table but BUF to its reset value; RC = OK, BUSY = 0, and CMD reads 0 afterwards. -/
def execReset (s : State) : Host.Outcome State Fault Refusal := complete .ok s.clear

end Sys2Proof.Machine
end

