-- ==== Sys2Proof/Machine/Sockets.lean ====
section
/-! DEFINITION. The port multiplexer and the session tables (spec/45_sockets.md): the lookup primitives of rules R230-R232,
which CLASSIFY shares, and the commands of rules R233-R241. -/

namespace Sys2Proof.Machine

/-! ### The tables (R34) -/

/-- UDP[i] (R31). -/
def State.udpAt (s : State) (i : Nat) : Session := s.udp.getD i (Session.free s.udp.length)

/-- TCP[i] (R32). -/
def State.tcpAt (s : State) (i : Nat) : TcpSession := s.tcp.getD i (TcpSession.free s.tcp.length)

/-- TBL(T)[i], the fields both tables have (R34). -/
def State.sessAt (s : State) (t : Table) (i : Nat) : Session :=
  match t with
  | .udp => s.udpAt i
  | .tcp => (s.tcpAt i).toSession

/-- Replace the fields of TBL(T)[i] that both tables have; a TCP slot's other fields stay. -/
def State.setSess (s : State) (t : Table) (i : Nat) (e : Session) : State :=
  match t with
  | .udp => { s with udp := s.udp.set i e }
  | .tcp => { s with tcp := s.tcp.set i { s.tcpAt i with toSession := e } }

/-- R236: write a whole new session into TBL(T)[i]; a TCP slot starts in HandshakeOutgoing with sequence numbers 0 and both
pending bits 0. -/
def State.newSess (s : State) (t : Table) (i : Nat) (e : Session) : State :=
  match t with
  | .udp => { s with udp := s.udp.set i e }
  | .tcp => { s with tcp := s.tcp.set i ⟨e, 0#32, 0#32, .handshakeOutgoing, false, false⟩ }

/-- APP(T)[j] (R33, R34). -/
def State.appAt (s : State) (t : Table) (j : Nat) : App :=
  match t with
  | .udp => s.appUdp.getD j App.empty
  | .tcp => s.appTcp.getD j App.empty

/-- `APP(T)[j] <- a`. -/
def State.setApp (s : State) (t : Table) (j : Nat) (a : App) : State :=
  match t with
  | .udp => { s with appUdp := s.appUdp.set j a }
  | .tcp => { s with appTcp := s.appTcp.set j a }

/-! ### Primitives -/

/-- R34, R230 in_use: `i < N_SESS(T)` and `TBL(T)[i].socket = i`. -/
def State.inUse (s : State) (t : Table) (i : Nat) : Bool :=
  decide (i < s.nSess t) && (s.sessAt t i).socket.toNat == i

/-- The slot's tuple is `(rip, lp, rp)`, exactly on all three fields (R231). -/
def Session.hasTuple (e : Session) (rip : IPv4) (lp rp : Half) : Bool :=
  e.remoteIp == rip && e.localPort == lp && e.remotePort == rp

/-- R231 find_tuple: the least in-use slot with the tuple. -/
def State.findTuple (s : State) (t : Table) (rip : IPv4) (lp rp : Half) : Option Nat :=
  least (s.nSess t) (fun i => s.inUse t i && (s.sessAt t i).hasTuple rip lp rp)

/-- R232 find_app: the least application slot registered on `port`; port 0 never matches. -/
def State.findApp (s : State) (t : Table) (port : Half) : Option Nat :=
  least (s.nApp t) (fun j => port != 0#16 && (s.appAt t j).port == port)

/-- R232 free_app: the least empty application slot. -/
def State.freeApp (s : State) (t : Table) : Option Nat :=
  least (s.nApp t) (fun j => (s.appAt t j).port == 0#16)

/-- R232 free_sess: the least session slot not in use. -/
def State.freeSess (s : State) (t : Table) : Option Nat :=
  least (s.nSess t) (fun i => !s.inUse t i)

/-! ### Application commands -/

/-- R233 PORT_OPEN. EXISTS is checked before FULL. -/
def execPortOpen (t : Table) (s : State) : Host.Outcome State Fault Refusal :=
  match s.argPort with
  | none => raise .badOperand s
  | some port =>
    match s.findApp t port with
    | some j => complete .existing { s with res0 := natWord j }
    | none =>
      match s.freeApp t with
      | none => complete .full { s with res0 := natWord (s.nApp t) }
      | some j => complete .ok { s.setApp t j ⟨port, s.arg1, s.arg2⟩ with res0 := natWord j }

/-- R234 PORT_CLOSE. No session slot changes. -/
def execPortClose (t : Table) (s : State) : Host.Outcome State Fault Refusal :=
  match s.argPort with
  | none => raise .badOperand s
  | some port =>
    match s.findApp t port with
    | none => complete .miss { s with res0 := natWord (s.nApp t) }
    | some j => complete .ok { s.setApp t j App.empty with res0 := natWord j }

/-- R235 PORT_FIND. RES3 is not written. -/
def execPortFind (t : Table) (s : State) : Host.Outcome State Fault Refusal :=
  match s.argPort with
  | none => raise .badOperand s
  | some port =>
    match s.findApp t port with
    | none => complete .miss { s with res0 := natWord (s.nApp t), res1 := 0#32, res2 := 0#32 }
    | some j =>
      complete .ok { s with res0 := natWord j, res1 := (s.appAt t j).timeoutMs, res2 := (s.appAt t j).tag }

/-! ### Session commands -/

/-- R236 SESS_ADD. EXISTS is checked before FULL; the new session takes the lowest free slot. -/
def execSessAdd (t : Table) (s : State) : Host.Outcome State Fault Refusal :=
  let sentinel := natWord (s.nSess t)
  match s.findTuple t s.arg0 s.argLocalPort s.argRemotePort with
  | some h => complete .existing { s with res0 := sentinel, res1 := natWord h }
  | none =>
    match s.freeSess t with
    | none => complete .full { s with res0 := sentinel, res1 := sentinel }
    | some i =>
      let e : Session := ⟨BitVec.ofNat 8 i, s.arg0, s.argLocalPort, s.argRemotePort, s.arg2, s.argClosePort⟩
      complete .ok { s.newSess t i e with res0 := natWord i, res1 := sentinel }

/-- The state after the slot `h` of table T is freed: `socket` becomes the sentinel, the other fields stay (R237, R38). -/
def State.freeSlot (s : State) (t : Table) (h : Nat) : State :=
  s.setSess t h { s.sessAt t h with socket := BitVec.ofNat 8 (s.nSess t) }

/-- The application slot SESS_REMOVE also closes (R237): the one on the session's local port, when the session says so. -/
def State.portToClose (s : State) (t : Table) (h : Nat) : Option Nat :=
  if (s.sessAt t h).closePort then s.findApp t (s.sessAt t h).localPort else none

/-- R237 SESS_REMOVE. -/
def execSessRemove (t : Table) (s : State) : Host.Outcome State Fault Refusal :=
  let h := s.arg0.toNat
  if s.inUse t h then
    match s.portToClose t h with
    | some j => complete .ok { (s.freeSlot t h).setApp t j App.empty with res0 := 1#32 }
    | none => complete .ok { s.freeSlot t h with res0 := 0#32 }
  else complete .miss { s with res0 := 0#32 }

/-- R238 SESS_GET. A free slot gives zeros, so no stale field escapes. -/
def execSessGet (t : Table) (s : State) : Host.Outcome State Fault Refusal :=
  let h := s.arg0.toNat
  if s.inUse t h then
    let e := s.sessAt t h
    complete .ok { s with
      res0 := e.remoteIp, res1 := pairWord e.localPort e.remotePort, res2 := e.timeoutMs, res3 := bitWord e.closePort }
  else complete .miss { s with res0 := 0#32, res1 := 0#32, res2 := 0#32, res3 := 0#32 }

/-- R239 SESS_LOOKUP. -/
def execSessLookup (t : Table) (s : State) : Host.Outcome State Fault Refusal :=
  match s.findTuple t s.arg0 s.argLocalPort s.argRemotePort with
  | none => complete .miss { s with res0 := natWord (s.nSess t) }
  | some h => complete .ok { s with res0 := natWord h }

/-- R240 TCP_SET: the state code is checked before the handle; no RES register is written. -/
def execTcpSet (s : State) : Host.Outcome State Fault Refusal :=
  match s.argConnState with
  | none => raise .badOperand s
  | some st =>
    let h := s.arg0.toNat
    if s.inUse .tcp h then
      complete .ok { s with
        tcp := s.tcp.set h { s.tcpAt h with
          lastSeq := s.arg1, lastAck := s.arg2, connState := st
          pendingAck := s.arg3.getLsbD 4, pendingPush := s.arg3.getLsbD 5 } }
    else complete .miss s

/-- R241 TCP_GET. RES3 is not written. -/
def execTcpGet (s : State) : Host.Outcome State Fault Refusal :=
  let h := s.arg0.toNat
  if s.inUse .tcp h then
    let e := s.tcpAt h
    complete .ok { s with res0 := e.lastSeq, res1 := e.lastAck, res2 := tcpFlagsWord e }
  else complete .miss { s with res0 := 0#32, res1 := 0#32, res2 := 0#32 }

end Sys2Proof.Machine
end

