-- ==== Sys2Proof/Machine/Dispatcher.lean ====
section
/-! DEFINITION. The Ethernet demultiplexer and ARP responder (spec/44_dispatcher.md): CLASSIFY and its stages (rules R190-R205),
ARP_REQ (R206) and IP_TX_HDR (R207), over the wire formats of spec/30_encoding.md rules R88-R92. -/

namespace Sys2Proof.Machine

/-! ### Constants of the wire formats -/

/-- R88: the Ethernet type of ARP. -/
def etherArp : Half := 0x0806#16

/-- R88: the Ethernet type of IPv4. -/
def etherIp : Half := 0x0800#16

/-- R90: the protocol number of ICMP. -/
def protoIcmp : Byte := 1#8

/-- R90: the protocol number of TCP. -/
def protoTcp : Byte := 6#8

/-- R90: the protocol number of UDP. -/
def protoUdp : Byte := 17#8

/-! ### What CLASSIFY reports (R191) -/

/-- The four result words of CLASSIFY. -/
structure Report where
  r0 : Word
  r1 : Word
  r2 : Word
  r3 : Word
deriving DecidableEq, Repr

/-- Class 0 DROP: all four words are 0 (R191). -/
def Report.drop : Report := ⟨0#32, 0#32, 0#32, 0#32⟩

/-- What a stage answers: the state as the stages leave it (the ARP cache, BUF, OWN) and the report. -/
abbrev Verdict := State × Report

/-- The frame is dropped: no error, no reason; learning already done stands (R190, R199). -/
def State.dropped (s : State) : Verdict := (s, .drop)

/-! ### The frames the block builds -/

/-- The 42-byte ARP frame at BUF[0] that R195 and R206 both build (formats R88, R89), from us: destination MAC, opcode, target
MAC and target IP differ. -/
def State.writeArpFrame (s : State) (dst : Mac) (oper : Half) (tha : Mac) (tpa : IPv4) : State :=
  { s with buf := Memory.writeFields s.buf [
      (0, 6, dst.toNat), (6, 6, s.localMac.toNat), (12, 2, 0x0806),
      (14, 2, 0x0001), (16, 2, 0x0800), (18, 1, 6), (19, 1, 4), (20, 2, oper.toNat),
      (22, 6, s.localMac.toNat), (28, 4, s.localIp.toNat), (32, 6, tha.toNat), (38, 4, tpa.toNat)] }

/-- The Ethernet and IPv4 headers R207 builds at BUF[0..33], with the header checksum field zero (formats R88, R90). -/
def State.writeIpHeader (s : State) (mac : Mac) (dst : IPv4) (proto : Byte) (plen : Nat) : State :=
  { s with buf := Memory.writeFields s.buf [
      (0, 6, mac.toNat), (6, 6, s.localMac.toNat), (12, 2, 0x0800),
      (14, 1, 0x45), (15, 1, 0x00), (16, 2, 20 + plen), (18, 2, s.ipId.toNat), (20, 2, 0x4000),
      (22, 1, s.fixed.ipTtl.toNat), (23, 1, proto.toNat), (24, 2, 0x0000),
      (26, 4, s.localIp.toNat), (30, 4, dst.toNat)] }

/-! ### The ARP stages (R193-R196) -/

/-- R194, R195: a request addressed to us is learned from and answered; any other request is dropped, nothing learned. The
reply is built in place over the request. -/
def State.arpRequest (s : State) (bc : Bool) (sha : Mac) (spa tpa : IPv4) : Verdict :=
  if s.localIp = 0#32 ∨ tpa ≠ s.localIp then s.dropped
  else
    ({ (s.learn spa sha).writeArpFrame sha 2#16 sha spa with own := .tx },
      ⟨classWord 0#4 bc 0#6 0#8 0#2 1#4, spa, 0#32, 42#32⟩)

/-- R196: every well-formed reply is learned from. -/
def State.arpReply (s : State) (bc : Bool) (sha : Mac) (spa : IPv4) : Verdict :=
  (s.learn spa sha, ⟨classWord 0#4 bc 0#6 0#8 0#2 2#4, spa, 0#32, 0#32⟩)

/-- R193: the ARP packet at offset 14 has the one accepted hardware type, protocol type and address lengths. -/
def State.arpHeaderOk (s : State) : Bool :=
  s.read16 14 == 1#16 && s.read16 16 == 0x0800#16 && s.read8 18 == 6#8 && s.read8 19 == 4#8

/-- R193, the ARP stage: validation, then the opcode. -/
def State.arpStage (s : State) (len : Nat) (bc : Bool) : Verdict :=
  if len < 42 then s.dropped
  else if !s.arpHeaderOk then s.dropped
  else
    let op := s.read16 20
    if op = 1#16 then s.arpRequest bc (s.read48 22) (s.read32 28) (s.read32 38)
    else if op = 2#16 then s.arpReply bc (s.read48 22) (s.read32 28)
    else s.dropped

/-! ### The IP stages (R197-R205) -/

/-- The IPv4 header fields the block reads (R90, R197). -/
structure IpHeader where
  version : BitVec 4
  ihl : BitVec 4
  total : Nat
  proto : Byte
  src : IPv4
  dst : IPv4
deriving DecidableEq, Repr

/-- R197: the fields, from the header at offset 14. -/
def State.ipHeader (s : State) : IpHeader where
  version := (s.read8 14).extractLsb' 4 4
  ihl := (s.read8 14).extractLsb' 0 4
  total := (s.read16 16).toNat
  proto := s.read8 23
  src := s.read32 26
  dst := s.read32 30

/-- The header's length in bytes, `4·IHL` (R90). -/
def IpHeader.bytes (h : IpHeader) : Nat := 4 * h.ihl.toNat

/-- R200: the frame offset of the IPv4 payload. -/
def IpHeader.payload (h : IpHeader) : Nat := 14 + h.bytes

/-- R200: the length of the IPv4 payload. -/
def IpHeader.payloadLen (h : IpHeader) : Nat := h.total - h.bytes

/-- R197: version 4, IHL at least 5, a total length that covers the header and lies in the frame. -/
def IpHeader.structureOk (h : IpHeader) (len : Nat) : Bool :=
  h.version == 4#4 && decide (5 ≤ h.ihl.toNat) && decide (h.bytes ≤ h.total) && decide (14 + h.total ≤ len)

/-- R198: the destination IP is ours, or the frame is link-layer broadcast and UDP. With LOCAL_IP = 0 a frame to IP 0 is
accepted, as R198 and R302 item 2 say, although R121's corner case says that after RESET only broadcast UDP is: no ruling of the
spec settles it, and the model follows R198 (DESIGN CHOICE, unsafe, log 20). -/
def State.ipAccepts (s : State) (h : IpHeader) (bc : Bool) : Bool :=
  h.dst == s.localIp || (h.proto == protoUdp && bc)

/-- R203 demux: a session by its tuple, else an application on the destination port, else none: the LOOKUP code and the
INDEX. -/
def State.demux (s : State) (t : Table) (sip : IPv4) (sport dport : Half) : BitVec 2 × Nat :=
  match s.findTuple t sip dport sport with
  | some h => (1#2, h)
  | none =>
    match s.findApp t dport with
    | some j => (2#2, j)
    | none => (0#2, 0)

/-- `{offset, length}` of a payload (R191). -/
def extentWord (off len : Nat) : Word := pairWord (BitVec.ofNat 16 off) (BitVec.ofNat 16 len)

/-- R205 ICMP: reported with the IPv4 payload's extent. -/
def State.icmpStage (s : State) (h : IpHeader) (bc : Bool) : Verdict :=
  ({ s with own := .rx },
    ⟨classWord h.ihl bc 0#6 0#8 0#2 3#4, h.src, 0#32, extentWord h.payload h.payloadLen⟩)

/-- R201 UDP. The UDP length field gives the payload length. -/
def State.udpStage (s : State) (h : IpHeader) (bc : Bool) : Verdict :=
  let p := h.payload
  let ulen := (s.read16 (p + 4)).toNat
  if h.payloadLen < 8 then s.dropped
  else if ulen < 8 ∨ h.payloadLen < ulen then s.dropped
  else
    let sport := s.read16 p
    let dport := s.read16 (p + 2)
    let found := s.demux .udp h.src sport dport
    ({ s with own := .rx },
      ⟨classWord h.ihl bc 0#6 (BitVec.ofNat 8 found.2) found.1 4#4, h.src, pairWord sport dport,
        extentWord (p + 8) (ulen - 8)⟩)

/-- R202 TCP. Options are skipped; bits 5:0 of the header-length and flags word are the flags (R92). -/
def State.tcpStage (s : State) (h : IpHeader) (bc : Bool) : Verdict :=
  let p := h.payload
  let hw := s.read16 (p + 12)
  let doff := (hw.extractLsb' 12 4).toNat
  if h.payloadLen < 20 then s.dropped
  else if doff < 5 ∨ h.payloadLen < 4 * doff then s.dropped
  else
    let sport := s.read16 p
    let dport := s.read16 (p + 2)
    let found := s.demux .tcp h.src sport dport
    ({ s with own := .rx },
      ⟨classWord h.ihl bc (hw.extractLsb' 0 6) (BitVec.ofNat 8 found.2) found.1 5#4, h.src, pairWord sport dport,
        extentWord (p + 4 * doff) (h.payloadLen - 4 * doff)⟩)

/-- R200: the branch on the protocol number. -/
def State.protocolStage (s : State) (h : IpHeader) (bc : Bool) : Verdict :=
  if h.proto = protoIcmp then s.icmpStage h bc
  else if h.proto = protoUdp then s.udpStage h bc
  else if h.proto = protoTcp then s.tcpStage h bc
  else s.dropped

/-- R197-R200, the IP stage: structure checks, acceptance, then learning the sender, which stands even when the protocol
stage drops the frame (R199). -/
def State.ipStage (s : State) (len : Nat) (bc : Bool) (smac : Mac) : Verdict :=
  let h := s.ipHeader
  if len < 34 then s.dropped
  else if !h.structureOk len then s.dropped
  else if !s.ipAccepts h bc then s.dropped
  else (s.learn h.src smac).protocolStage h bc

/-! ### CLASSIFY (R190, R192, R204) -/

/-- R192, the Ethernet stage: branch on the type field. -/
def State.ethernetStage (s : State) (len : Nat) : Verdict :=
  let bc := s.read48 0 == bcastMac
  let etype := s.read16 12
  if etype = etherArp then s.arpStage len bc
  else if etype = etherIp then s.ipStage len bc (s.read48 6)
  else s.dropped

/-- R190: the verdict on the frame `BUF[0 .. len-1]`; a frame shorter than its Ethernet header is dropped. -/
def State.classifyFrame (s : State) (len : Nat) : Verdict :=
  if 14 ≤ len then s.ethernetStage len else s.dropped

/-- R190 CLASSIFY. RC is OK for every class, DROP included. -/
def execClassify (s : State) : Host.Outcome State Fault Refusal :=
  if s.fixed.bufSize < s.arg0.toNat then raise .badOperand s
  else if s.own ≠ .free then raise .owned s
  else
    let v := s.classifyFrame s.arg0.toNat
    complete .ok { v.1 with res0 := v.2.r0, res1 := v.2.r1, res2 := v.2.r2, res3 := v.2.r3 }

/-! ### Outgoing frames -/

/-- R206 ARP_REQ. The cache is not changed. -/
def execArpReq (s : State) : Host.Outcome State Fault Refusal :=
  let key := s.redirect s.arg0
  if key = 0#32 then raise .badOperand s
  else if s.own ≠ .free then raise .owned s
  else complete .ok { s.writeArpFrame bcastMac 1#16 0#48 key with own := .tx, res0 := 42#32, res3 := key }

/-- R207 IP_TX_HDR. CSUM_ACC is neither used nor changed. -/
def execIpTxHdr (s : State) : Host.Outcome State Fault Refusal :=
  let dst := s.arg0
  let plen := s.argPayloadLen
  if !s.inBuf 34 plen then raise .badOperand s
  else if s.own ≠ .free then raise .owned s
  else
    let r := s.resolve dst
    let built := s.writeIpHeader r.mac dst s.argProtocol plen
    let c := checksumFinal (built.sumRange 0#32 14 20)
    complete .ok { built.memWrite 24 2 c.toNat with
      ipId := s.ipId + 1#16
      own := .tx
      res0 := natWord (34 + plen), res1 := halfWord c, res2 := hitWord r.bcast r.hit, res3 := r.key }

end Sys2Proof.Machine
end

