-- ==== Sys2Proof/Machine/Dispatch.lean ====
section
/-! DEFINITION. The meaning of every command (spec/60_exceptions.md rule R270), one arm per constructor of Instr. -/

namespace Sys2Proof.Machine

/-- R270: run the pseudocode of the command's rule; the answer includes RC and BUSY = 0. -/
def exec (i : Instr) (s : State) : Host.Outcome State Fault Refusal :=
  match i with
  | .nop => Sys2Proof.Machine.execNop s
  | .reset => Sys2Proof.Machine.execReset s
  | .bufRd => Sys2Proof.Machine.execBufRd s
  | .bufWr => Sys2Proof.Machine.execBufWr s
  | .bufRelease => Sys2Proof.Machine.execBufRelease s
  | .csumInit => Sys2Proof.Machine.execCsumInit s
  | .csumAdd => Sys2Proof.Machine.execCsumAdd s
  | .csumAddw => Sys2Proof.Machine.execCsumAddw s
  | .csumFinal => Sys2Proof.Machine.execCsumFinal s
  | .csum => Sys2Proof.Machine.execCsum s
  | .arpAdd => Sys2Proof.Machine.execArpAdd s
  | .arpGet => Sys2Proof.Machine.execArpGet s
  | .arpResolve => Sys2Proof.Machine.execArpResolve s
  | .arpTick => Sys2Proof.Machine.execArpTick s
  | .arpStat => Sys2Proof.Machine.execArpStat s
  | .arpSlot => Sys2Proof.Machine.execArpSlot s
  | .classify => Sys2Proof.Machine.execClassify s
  | .arpReq => Sys2Proof.Machine.execArpReq s
  | .ipTxHdr => Sys2Proof.Machine.execIpTxHdr s
  | .portOpen t => Sys2Proof.Machine.execPortOpen t s
  | .portClose t => Sys2Proof.Machine.execPortClose t s
  | .portFind t => Sys2Proof.Machine.execPortFind t s
  | .sessAdd t => Sys2Proof.Machine.execSessAdd t s
  | .sessRemove t => Sys2Proof.Machine.execSessRemove t s
  | .sessGet t => Sys2Proof.Machine.execSessGet t s
  | .sessLookup t => Sys2Proof.Machine.execSessLookup t s
  | .tcpSet => Sys2Proof.Machine.execTcpSet s
  | .tcpGet => Sys2Proof.Machine.execTcpGet s

end Sys2Proof.Machine
end

