-- ==== Sys2Proof/WellFormed.lean ====
section
/-! DEFINITION. Well-formedness checks: of a command word (spec/30_encoding.md rules R81, R83), of the parameters
(spec/00_scope.md rule R7), of a host access (spec/20_memory.md rule R64). An `Instr` needs no check: its only operand is a
two-valued `Table`, and TCP_SET and TCP_GET, whose T is fixed 1, have no operand (R81), so every term of `Instr` is a command.
What can be ill-formed is the word. -/

namespace Sys2Proof

/-- R81: bits 31:9 of a command word are reserved and must be 0. -/
def reservedClear (w : Word) : Bool := w.toNat < 2 ^ 9

/-- R83: the OP values (bits 7:0) that the opcode table assigns: everything outside "0x02..0x0F, 0x13..0x1F, 0x25..0x2F,
0x36..0x3F, 0x43..0x4F, 0x59..0xFF". -/
def opAssigned (w : Word) : Bool :=
  let op := w.toNat % 2 ^ 8
  !((0x02 ≤ op && op ≤ 0x0F) || (0x13 ≤ op && op ≤ 0x1F) || (0x25 ≤ op && op ≤ 0x2F) ||
    (0x36 ≤ op && op ≤ 0x3F) || (0x43 ≤ op && op ≤ 0x4F) || (0x59 ≤ op && op ≤ 0xFF))

/-- R81: T (bit 8) is free for the socket commands 0x50..0x56, must be 1 for TCP_SET and TCP_GET (0x57, 0x58), and must be 0
for every command that is not a socket command. -/
def tableBitAllowed (w : Word) : Bool :=
  let op := w.toNat % 2 ^ 8
  let t := w.toNat / 2 ^ 8 % 2
  if 0x50 ≤ op && op ≤ 0x56 then true
  else if op == 0x57 || op == 0x58 then t == 1
  else t == 0

/-- A command word is well formed when none of the grounds of R83 makes it illegal. -/
def commandWordWf (w : Word) : Bool := reservedClear w && opAssigned w && tableBitAllowed w

/-- R7: the ranges of the parameters a running block reads. -/
def Config.Fixed.inRange (f : Config.Fixed) : Bool :=
  1 ≤ f.arpTtlMax.toNat && 1 ≤ f.ipTtl.toNat && 42 ≤ f.bufSize && f.bufSize ≤ 65535

/-- R7: a table capacity is in 1..254, so that every index and the sentinel fit in 8 bits. -/
def capacityInRange (n : Nat) : Bool := 1 ≤ n && n ≤ 254

/-- R7: every parameter is in its range. -/
def Config.Params.inRange (p : Config.Params) : Bool :=
  p.toFixed.inRange && capacityInRange p.nArp && capacityInRange p.nUdp && capacityInRange p.nTcp &&
    capacityInRange p.nAppUdp && capacityInRange p.nAppTcp

/-- R64: "Host register accesses must be aligned 32-bit words at offsets that are multiples of 4". -/
def hostAccessWf (offset size : Nat) : Bool := size == 4 && offset % 4 == 0

end Sys2Proof
end

