-- ==== Sys2Proof/Machine/Registers.lean ====
section
/-! DEFINITION. The host register map and the host's reads and writes (spec/30_encoding.md rule R80, spec/20_memory.md rules
R62, R64, R66, spec/60_exceptions.md rule R275, spec/70_reset_and_hazards.md rule R303). -/

namespace Sys2Proof.Machine

/-- The registers of the map (R80). -/
inductive Reg where
  | cmd
  | status
  | arg0
  | arg1
  | arg2
  | arg3
  | res0
  | res1
  | res2
  | res3
  | macHi
  | macLo
  | localIp
  | netmask
  | gateway
  | ipId
  | csumAcc
  | caps0
  | caps1
  | caps2
  | reserved
deriving DecidableEq, Repr

/-- R80: the register at a word offset of the 256-byte block; 0x50..0xFC are reserved. -/
def Reg.ofOffset (offset : Nat) : Reg :=
  match offset with
  | 0x00 => .cmd
  | 0x04 => .status
  | 0x08 => .arg0
  | 0x0C => .arg1
  | 0x10 => .arg2
  | 0x14 => .arg3
  | 0x18 => .res0
  | 0x1C => .res1
  | 0x20 => .res2
  | 0x24 => .res3
  | 0x28 => .macHi
  | 0x2C => .macLo
  | 0x30 => .localIp
  | 0x34 => .netmask
  | 0x38 => .gateway
  | 0x3C => .ipId
  | 0x40 => .csumAcc
  | 0x44 => .caps0
  | 0x48 => .caps1
  | 0x4C => .caps2
  | _ => .reserved

/-- R303, U2: the registers whose value is unspecified while a command is pending. -/
def Reg.unsettledWhileBusy (r : Reg) : Bool :=
  match r with
  | .res0 | .res1 | .res2 | .res3 | .ipId | .csumAcc => true
  | .cmd | .status | .arg0 | .arg1 | .arg2 | .arg3 | .macHi | .macLo | .localIp | .netmask | .gateway
  | .caps0 | .caps1 | .caps2 | .reserved => false

/-- R303, U1: the registers the host must not write while a command is pending. -/
def Reg.lockedWhileBusy (r : Reg) : Bool :=
  match r with
  | .arg0 | .arg1 | .arg2 | .arg3 | .macHi | .macLo | .localIp | .netmask | .gateway => true
  | .cmd | .status | .res0 | .res1 | .res2 | .res3 | .ipId | .csumAcc | .caps0 | .caps1 | .caps2 | .reserved => false

/-- R80: the current value of a register; reserved offsets read 0. -/
def State.regValue (s : State) (r : Reg) : Word :=
  match r with
  | .cmd => s.cmd
  | .status => s.status
  | .arg0 => s.arg0
  | .arg1 => s.arg1
  | .arg2 => s.arg2
  | .arg3 => s.arg3
  | .res0 => s.res0
  | .res1 => s.res1
  | .res2 => s.res2
  | .res3 => s.res3
  | .macHi => macHigh s.localMac
  | .macLo => halfWord (macLow s.localMac)
  | .localIp => s.localIp
  | .netmask => s.netmask
  | .gateway => s.gateway
  | .ipId => halfWord s.ipId
  | .csumAcc => s.csumAcc
  | .caps0 => s.caps0
  | .caps1 => s.caps1
  | .caps2 => s.caps2
  | .reserved => 0#32

/-- A host read (R66: no side effect on the block). The word goes to `readData`, the model's own view of what the host got
(log 7). While BUSY = 1 an unsettled register gives a free value, a fresh one at each read (U2, log 5). -/
def State.hostRead (s : State) (r : Reg) : State :=
  if s.busy && r.unsettledWhileBusy then
    { s with readData := some (Config.busyRead s.freeReads), freeReads := s.freeReads + 1 }
  else { s with readData := some (s.regValue r) }

/-- A host write while BUSY = 0 or to a register the host may write at any time (R66, R80). An accepted CMD write latches the
command (R22, R40); a CMD write while BUSY = 1 is lost and sets OVR (R275); STATUS bit 16 clears OVR (R24); read-only and
reserved registers ignore the write, also while BUSY (R66, log 8). -/
def State.regWrite (s : State) (r : Reg) (v : Word) : State :=
  match r with
  | .cmd => if s.busy then { s with ovr := true } else s.latch v
  | .status => if v.getLsbD 16 then { s with ovr := false } else s
  | .arg0 => { s with arg0 := v }
  | .arg1 => { s with arg1 := v }
  | .arg2 => { s with arg2 := v }
  | .arg3 => { s with arg3 := v }
  | .macHi => { s with localMac := macOf v (macLow s.localMac) }
  | .macLo => { s with localMac := macOf (macHigh s.localMac) (lowHalf v) }
  | .localIp => { s with localIp := v }
  | .netmask => { s with netmask := v }
  | .gateway => { s with gateway := v }
  | .res0 | .res1 | .res2 | .res3 | .ipId | .csumAcc | .caps0 | .caps1 | .caps2 | .reserved => s

/-- A host write: a locked register while BUSY = 1 is the fault of U1 (R303, log 10). -/
def State.hostWrite (s : State) (r : Reg) (v : Word) : Host.Outcome State Fault Refusal :=
  if s.busy && r.lockedWhileBusy then .fault .hostWriteWhileBusy else .next (s.regWrite r v)

/-- The offset of a host address in the 256-byte register block, if it lies there (R60, R68, U7). -/
def State.registerOffset (s : State) (addr : Nat) : Option Nat :=
  if s.fixed.base ≤ addr ∧ addr < s.fixed.base + 256 then some (addr - s.fixed.base) else none

/-- The register a host access of `size` bytes at `addr` reaches, or why the model refuses the access (R64, U3, log 9). -/
def State.hostTarget (s : State) (addr size : Nat) : Except Refusal Reg :=
  match s.registerOffset addr with
  | none => .error .outsideRegisterBlock
  | some offset => if hostAccessWf offset size then .ok (Reg.ofOffset offset) else .error .hostAccessNotAWord

/-- One host access (R15, R80). -/
def hostTurn (a : HostAccess) (s : State) : Host.Outcome State Fault Refusal :=
  match a with
  | .read addr size =>
    match s.hostTarget addr size with
    | .ok r => .next (s.hostRead r)
    | .error e => .refused e
  | .write addr size v =>
    match s.hostTarget addr size with
    | .ok r => s.hostWrite r v
    | .error e => .refused e

end Sys2Proof.Machine
end

