-- ==== Sys2Proof/Machine/Turns.lean ====
section
/-! DEFINITION. The turns of the machine (spec/00_scope.md rule R15): the block's execution of the pending command
(spec/60_exceptions.md rule R270), a host access, a power cycle, and which of them comes next. -/

namespace Sys2Proof.Machine

/-- R270: decode the command word and run its command; a word that selects no row raises ILLEGAL (R83, R274). -/
def runCommand (w : Word) (s : State) : Host.Outcome State Fault Refusal :=
  match decode w with
  | .ok i => exec i s
  | .error _ => raise .illegal s

/-- The block's turn: it executes the pending command (R40, R270), and with none pending it waits for a CMD write (R300), which
leaves the state as it is (log 2). -/
def blockTurn (s : State) : Host.Outcome State Fault Refusal :=
  match s.pending with
  | some w => runCommand w s
  | none => .next s

/-- One coming turn. -/
def takeTurn (i : Input) (s : State) : Host.Outcome State Fault Refusal :=
  match i with
  | .host a => hostTurn a s
  | .blockRuns => blockTurn s
  | .powerCycle => .next s.powerCycle

/-- The next turn is the first of `inputs`, which leaves the list; with the list empty it is the block's turn, so that a
pending command always completes (U6, log 2). -/
def nextTurn (s : State) : Host.Outcome State Fault Refusal :=
  match s.inputs with
  | [] => blockTurn s
  | i :: rest => takeTurn i { s with inputs := rest }

/-- The command word `w` is the pending command and the very next turn is the block's (log 3). -/
def State.withPending (s : State) (w : Word) : State :=
  { s.latch w with inputs := .blockRuns :: s.inputs }

end Sys2Proof.Machine
end

