-- ==== Sys2Proof/Machine/Step.lean ====
section
/-! DEFINITION. One step of the machine, and how an instruction is placed where the next step fetches it. -/

namespace Sys2Proof.Machine

/-- One turn of the host, the block or the power supply (R15, R282), in the order `inputs` gives (log 2). -/
def step (s : State) : Host.Outcome State Fault Refusal := nextTurn s

/-- The command word whose low `nbits` bits are `w` is the pending command and the next turn is the block's: it stands for the
host's CMD write (R40, R80; log 3). -/
def State.withFetchWord (s : State) (nbits w : Nat) : State :=
  s.withPending (BitVec.ofNat 32 (w % 2 ^ nbits))

end Sys2Proof.Machine
end

