-- ==== Sys2Proof/Machine/Assembler.lean ====
section
/-! DEFINITION. The assembly language of host programs (spec/30_encoding.md rules R97, R98) as lists of coming turns: what each
statement and pseudo-instruction makes the host do. Control flow between statements is the host's (R97, R99). -/

namespace Sys2Proof.Machine

/-- R80: the offset of a register of the map; reserved offsets begin at 0x50. -/
def Reg.offset (r : Reg) : Nat :=
  match r with
  | .cmd => 0x00
  | .status => 0x04
  | .arg0 => 0x08
  | .arg1 => 0x0C
  | .arg2 => 0x10
  | .arg3 => 0x14
  | .res0 => 0x18
  | .res1 => 0x1C
  | .res2 => 0x20
  | .res3 => 0x24
  | .macHi => 0x28
  | .macLo => 0x2C
  | .localIp => 0x30
  | .netmask => 0x34
  | .gateway => 0x38
  | .ipId => 0x3C
  | .csumAcc => 0x40
  | .caps0 => 0x44
  | .caps1 => 0x48
  | .caps2 => 0x4C
  | .reserved => 0x50

/-- R97 `WR reg, v`. -/
def asmWr (base : Nat) (r : Reg) (v : Word) : Input := .host (.write (base + r.offset) 4 v)

/-- R97 `RD reg`. -/
def asmRd (base : Nat) (r : Reg) : Input := .host (.read (base + r.offset) 4)

/-- R98 `WAIT`: read STATUS until bit 0 is 0. The loop's reads while BUSY have no side effect (R66): it is taken with the
block's turn first, so that its one read is the last of the loop, the one that sees BUSY = 0 (log 19). -/
def asmWait (base : Nat) : List Input := [.blockRuns, asmRd base .status]

/-- R97 `ip(a.b.c.d)`. -/
def asmIp (a b c d : Byte) : IPv4 := a ++ b ++ c ++ d

/-- R97 `pp(l, r)` = `(l << 16) | r`. -/
def asmPair (l r : Half) : Word := pairWord l r

/-- R97, the ARG writes of a command statement: ARG0, ARG1, ... for the operands given; an omitted trailing operand leaves
its register unchanged. -/
def asmArgs (base : Nat) (args : List Word) : List Input :=
  ([Reg.arg0, .arg1, .arg2, .arg3].zip args).map (fun p => asmWr base p.1 p.2)

/-- R97, a command statement: the ARG writes, the CMD write, then WAIT. -/
def asmCommand (base : Nat) (i : Instr) (args : List Word) : List Input :=
  asmArgs base args ++ [asmWr base .cmd (encode i)] ++ asmWait base

/-- R98 `CFG mac, ip, mask, gw`. -/
def asmCfg (base : Nat) (mac : Mac) (ip : IPv4) (mask : Word) (gw : IPv4) : List Input :=
  [asmWr base .macHi (macHigh mac), asmWr base .macLo (halfWord (macLow mac)), asmWr base .localIp ip,
    asmWr base .netmask mask, asmWr base .gateway gw]

/-- R98 `CLRACC` = `CSUM_INIT 0`. -/
def asmClrAcc (base : Nat) : List Input := asmCommand base .csumInit [0#32]

/-- R98 `BUFW off, b0 b1 ...`: BUF_WR of four bytes while four remain, then of two if two remain, then of one. -/
def asmBufw (base off : Nat) (bs : List Byte) : List Input :=
  match bs with
  | b0 :: b1 :: b2 :: b3 :: rest =>
    asmCommand base .bufWr [natWord off, 4#32, b0 ++ b1 ++ b2 ++ b3] ++ asmBufw base (off + 4) rest
  | [b0, b1, b2] =>
    asmCommand base .bufWr [natWord off, 2#32, halfWord (b0 ++ b1)] ++
      asmCommand base .bufWr [natWord (off + 2), 1#32, b2.setWidth 32]
  | [b0, b1] => asmCommand base .bufWr [natWord off, 2#32, halfWord (b0 ++ b1)]
  | [b0] => asmCommand base .bufWr [natWord off, 1#32, b0.setWidth 32]
  | [] => []

end Sys2Proof.Machine
end

