-- ==== Sys2Proof/Safety.lean ====
section
/-! DEFINITION. What a good state and a safe run are, and the vocabulary the statements use: least indices, big-endian values of
BUF, exact word sums, the demultiplexer's answer, repeated commands. -/

namespace Sys2Proof.Machine

/-! ### The invariant (spec/10_state.md rule R37, spec/00_scope.md rule R7) -/

/-- Two sessions have the same tuple (R13, R37). -/
def Session.sameTuple (d e : Session) : Prop :=
  d.remoteIp = e.remoteIp ∧ d.localPort = e.localPort ∧ d.remotePort = e.remotePort

/-- The invariants of R37, with the ranges of R7 and the form of BUF that the model keeps. -/
structure State.Inv (s : State) : Prop where
  /-- R7: ARP_TTL_MAX, IP_TTL and BUF_SIZE are in range. -/
  fixedInRange : s.fixed.inRange = true
  /-- R7: N_ARP is in range. -/
  arpCapacity : capacityInRange s.nArp = true
  /-- R7: the session capacities are in range. -/
  sessCapacity : ∀ t, capacityInRange (s.nSess t) = true
  /-- R7: the application capacities are in range. -/
  appCapacity : ∀ t, capacityInRange (s.nApp t) = true
  /-- R37 item 1: no two live ARP slots hold the same ip. -/
  arpUnique : ∀ i j, i < s.nArp → j < s.nArp → (s.arpAt i).ip ≠ 0#32 → (s.arpAt i).ip = (s.arpAt j).ip → i = j
  /-- R37 item 2: a live slot has `1 ≤ ttl ≤ ARP_TTL_MAX`. -/
  arpLiveTtl : ∀ i, i < s.nArp → (s.arpAt i).ip ≠ 0#32 →
    1 ≤ (s.arpAt i).ttl.toNat ∧ (s.arpAt i).ttl.toNat ≤ s.fixed.arpTtlMax.toNat
  /-- R37 item 2: an empty slot has `mac = 0` and `ttl = 0`. -/
  arpEmptyClear : ∀ i, i < s.nArp → (s.arpAt i).ip = 0#32 → (s.arpAt i).mac = 0#48 ∧ (s.arpAt i).ttl = 0#16
  /-- R37 item 3: no two in-use slots of one session table have the same tuple. -/
  sessUnique : ∀ t i j, s.inUse t i = true → s.inUse t j = true → (s.sessAt t i).sameTuple (s.sessAt t j) → i = j
  /-- R37 item 4: no two slots of one application table hold the same non-zero port. -/
  appUnique : ∀ t i j, i < s.nApp t → j < s.nApp t → (s.appAt t i).port ≠ 0#16 →
    (s.appAt t i).port = (s.appAt t j).port → i = j
  /-- BUF is in its canonical form. -/
  bufCanonical : Memory.wf s.buf = true
  /-- R67: no byte outside `0 .. BUF_SIZE-1` is ever written. -/
  bufBounded : ∀ c, c ∈ s.buf → c.1 < s.fixed.bufSize

/-- A run of `k` steps that meets neither a fault nor a refusal. -/
def State.runsSafely (s : State) (k : Nat) : Prop := ∃ t, Host.Core.run Sys2Proof.core k s = .next t

/-! ### Searching -/

/-- R11: `i` is the least index below `n` with the property. -/
def LeastIndex (n : Nat) (p : Nat → Prop) (i : Nat) : Prop := i < n ∧ p i ∧ ∀ j, j < i → ¬ p j

/-- R11: no index below `n` has the property. -/
def NoIndex (n : Nat) (p : Nat → Prop) : Prop := ∀ i, i < n → ¬ p i

/-- ARP slot `i` holds `ip` (R160). -/
def State.arpHolds (s : State) (ip : IPv4) (i : Nat) : Prop := (s.arpAt i).ip = ip

/-- Session slot `i` of table T is in use with the tuple (R231). -/
def State.sessHolds (s : State) (t : Table) (rip : IPv4) (lp rp : Half) (i : Nat) : Prop :=
  s.inUse t i = true ∧ (s.sessAt t i).remoteIp = rip ∧ (s.sessAt t i).localPort = lp ∧ (s.sessAt t i).remotePort = rp

/-- Application slot `j` of table T is registered on `port` (R232). -/
def State.appHolds (s : State) (t : Table) (port : Half) (j : Nat) : Prop :=
  port ≠ 0#16 ∧ (s.appAt t j).port = port

/-- R203: the demultiplexer's LOOKUP and INDEX for a packet from `(sip, sport)` to `dport`: 1 and the session, else 2 and the
application, else 0 and 0. -/
def State.DemuxAnswers (s : State) (t : Table) (sip : IPv4) (sport dport : Half) (k idx : Nat) : Prop :=
  (LeastIndex (s.nSess t) (s.sessHolds t sip dport sport) idx ∧ k = 1) ∨
  (NoIndex (s.nSess t) (s.sessHolds t sip dport sport) ∧ LeastIndex (s.nApp t) (s.appHolds t dport) idx ∧ k = 2) ∨
  (NoIndex (s.nSess t) (s.sessHolds t sip dport sport) ∧ NoIndex (s.nApp t) (s.appHolds t dport) ∧ k = 0 ∧ idx = 0)

/-- R161: the address that is looked up for `ip`. -/
def State.redirectKey (s : State) (ip : IPv4) : IPv4 :=
  if ip &&& s.netmask = s.localIp &&& s.netmask then ip else s.gateway

/-- R164: resolving `ip` gives the MAC `mac`, the key `key`, and the flags `2·BCAST + HIT = k`: the broadcast address, else a
cache entry for the key, else a miss. -/
def State.ResolvesTo (s : State) (ip : IPv4) (mac : Mac) (k : Nat) (key : IPv4) : Prop :=
  (ip = 0xFFFFFFFF#32 ∧ mac = 0xFFFFFFFFFFFF#48 ∧ k = 2 ∧ key = ip) ∨
  (ip ≠ 0xFFFFFFFF#32 ∧ key = s.redirectKey ip ∧ key ≠ 0#32 ∧ k = 1 ∧
    ∃ i, LeastIndex s.nArp (s.arpHolds key) i ∧ mac = (s.arpAt i).mac) ∨
  (ip ≠ 0xFFFFFFFF#32 ∧ key = s.redirectKey ip ∧ (key = 0#32 ∨ NoIndex s.nArp (s.arpHolds key)) ∧ k = 0 ∧
    mac = 0xFFFFFFFFFFFF#48)

/-! ### Table updates -/

/-- From `s` to `t` the application tables differ in at most slot `j` of table T, which holds `a` in `t`. -/
def State.appsUpdated (s t : State) (tb : Table) (j : Nat) (a : App) : Prop :=
  (∀ tb', t.nApp tb' = s.nApp tb') ∧ t.appAt tb j = a ∧ ∀ tb' j', ¬(tb' = tb ∧ j' = j) → t.appAt tb' j' = s.appAt tb' j'

/-- From `s` to `t` the session tables differ in at most slot `i` of table T, whose fields of R31 are `e` in `t`. -/
def State.sessionsUpdated (s t : State) (tb : Table) (i : Nat) (e : Session) : Prop :=
  (∀ tb', t.nSess tb' = s.nSess tb') ∧ t.sessAt tb i = e ∧
    (∀ i', ¬(tb = .udp ∧ i' = i) → t.udpAt i' = s.udpAt i') ∧ (∀ i', ¬(tb = .tcp ∧ i' = i) → t.tcpAt i' = s.tcpAt i')

/-! ### Values of BUF -/

/-- The number `BUF[a]`. -/
def State.be8 (s : State) (a : Nat) : Nat := (s.bufByte a).toNat

/-- R61: the big-endian number at `BUF[a], BUF[a+1]`. -/
def State.be16 (s : State) (a : Nat) : Nat := s.be8 a * 2 ^ 8 + s.be8 (a + 1)

/-- R61: the big-endian number at `BUF[a] .. BUF[a+3]`. -/
def State.be32 (s : State) (a : Nat) : Nat := s.be16 a * 2 ^ 16 + s.be16 (a + 2)

/-- R61: the big-endian number at `BUF[a] .. BUF[a+5]`. -/
def State.be48 (s : State) (a : Nat) : Nat := s.be32 a * 2 ^ 16 + s.be16 (a + 4)

/-- The bytes of BUF from offset 0 on are `bs`, and every byte past them is as in `s`. -/
def State.frameStaged (s t : State) (bs : List Byte) : Prop :=
  ∀ a, t.bufByte a = if h : a < bs.length then bs[a] else s.bufByte a

/-- The six bytes of a MAC on the wire (R10). -/
def macBytes (m : Mac) : List Byte :=
  [m.extractLsb' 40 8, m.extractLsb' 32 8, m.extractLsb' 24 8, m.extractLsb' 16 8, m.extractLsb' 8 8, m.extractLsb' 0 8]

/-- The four bytes of an IPv4 address on the wire (R10). -/
def ipBytes (a : IPv4) : List Byte :=
  [a.extractLsb' 24 8, a.extractLsb' 16 8, a.extractLsb' 8 8, a.extractLsb' 0 8]

/-- The two bytes of a 16-bit value on the wire (R61). -/
def halfBytes (h : Half) : List Byte := [h.extractLsb' 8 8, h.extractLsb' 0 8]

/-- R190, R192, R197: CLASSIFY may run (OWN is FREE, the frame fits in BUF) and the frame is an IPv4 frame of good structure
with header length `4·ihl`, total length `tot` and protocol `proto`. -/
def State.ipFrame (s : State) (ihl tot proto : Nat) : Prop :=
  s.own = .free ∧ s.arg0.toNat ≤ s.fixed.bufSize ∧ 34 ≤ s.arg0.toNat ∧ s.be16 12 = 0x0800 ∧
    s.be8 14 = 0x40 + ihl ∧ 5 ≤ ihl ∧ ihl ≤ 15 ∧ s.be16 16 = tot ∧ 4 * ihl ≤ tot ∧ 14 + tot ≤ s.arg0.toNat ∧ s.be8 23 = proto

/-- R198: link-layer broadcast, the destination MAC is `ff:ff:ff:ff:ff:ff`. -/
def State.linkBroadcast (s : State) : Prop := s.be48 0 = 0xFFFFFFFFFFFF

/-- R198: the frame is accepted. With LOCAL_IP = 0 that holds of a frame to IP 0 too (log 20). -/
def State.ipAccepted (s : State) (proto : Nat) : Prop :=
  s.be32 30 = s.localIp.toNat ∨ (proto = 17 ∧ s.linkBroadcast)

/-- R191: the BCAST bit of RES0, as a number. -/
def State.bcastBit (s : State) : Nat := if s.be48 0 = 0xFFFFFFFFFFFF then 2 ^ 22 else 0

/-- R199: the state after the sender of an accepted IP frame is learned. -/
def State.ipLearned (s : State) : State := s.learn (BitVec.ofNat 32 (s.be32 26)) (BitVec.ofNat 48 (s.be48 6))

/-- R193: CLASSIFY may run and the frame is an ARP frame that passes validation, with opcode `oper`. -/
def State.arpFrame (s : State) (oper : Nat) : Prop :=
  s.own = .free ∧ s.arg0.toNat ≤ s.fixed.bufSize ∧ 42 ≤ s.arg0.toNat ∧ s.be16 12 = 0x0806 ∧ s.be16 14 = 1 ∧
    s.be16 16 = 0x0800 ∧ s.be8 18 = 6 ∧ s.be8 19 = 4 ∧ s.be16 20 = oper

/-! ### Exact checksum arithmetic -/

/-- R141: the `k`-th big-endian 16-bit word of a range of `len` bytes; an odd trailing byte is the high byte of its word. -/
def State.rangeWord (s : State) (off len k : Nat) : Nat :=
  s.be8 (off + 2 * k) * 2 ^ 8 + (if 2 * k + 1 < len then s.be8 (off + 2 * k + 1) else 0)

/-- The exact sum of the words of a range (R150's "Σ words"). -/
def State.wordSum (s : State) (off len : Nat) : Nat :=
  ((List.range ((len + 1) / 2)).map (s.rangeWord off len)).sum

/-- R140: `acc` is the 32-bit end-around-carry sum of the exact total: congruent to it modulo 2^32 - 1, and 0 only for a total
of 0. These two facts determine `acc`. -/
def EndAroundSum (acc : Word) (total : Nat) : Prop :=
  acc.toNat % (2 ^ 32 - 1) = total % (2 ^ 32 - 1) ∧ (acc = 0#32 ↔ total = 0)

/-- R142: the checksum of an accumulator by arithmetic modulo 0xFFFF. -/
def checksumValue (acc : Nat) : Nat :=
  if acc = 0 then 0xFFFF else if acc % 0xFFFF = 0 then 0 else 0xFFFF - acc % 0xFFFF

/-! ### Repetition -/

/-- The command `i` executed `k` times in a row. -/
def repeatCommand (i : Instr) (k : Nat) (s : State) : Host.Outcome State Fault Refusal :=
  match k with
  | 0 => .next s
  | k + 1 =>
    match exec i s with
    | .next t => repeatCommand i k t
    | .fault r => .fault r
    | .refused r => .refused r

end Sys2Proof.Machine
end

