-- ==== Sys2Proof/Certificates/Slice0/Obligations.lean ====
section
/-! DEFINITION. The statements for the provers. Each docstring names the rule of spec/ it formalises. `{ s with … }` in a
conclusion is the frame: every field not named is as in `s`. -/

open Sys2Proof Sys2Proof.Machine

/-! ### Encoding -/

/-- R82: every row's word, with each value of T where T is free, decodes to the row's command. -/
def Obligations.OpcodeMapWordsDecode : Prop :=
  decode 0x00000000#32 = .ok .nop ∧ decode 0x00000001#32 = .ok .reset ∧
  decode 0x00000010#32 = .ok .bufRd ∧ decode 0x00000011#32 = .ok .bufWr ∧ decode 0x00000012#32 = .ok .bufRelease ∧
  decode 0x00000020#32 = .ok .csumInit ∧ decode 0x00000021#32 = .ok .csumAdd ∧ decode 0x00000022#32 = .ok .csumAddw ∧
  decode 0x00000023#32 = .ok .csumFinal ∧ decode 0x00000024#32 = .ok .csum ∧
  decode 0x00000030#32 = .ok .arpAdd ∧ decode 0x00000031#32 = .ok .arpGet ∧ decode 0x00000032#32 = .ok .arpResolve ∧
  decode 0x00000033#32 = .ok .arpTick ∧ decode 0x00000034#32 = .ok .arpStat ∧ decode 0x00000035#32 = .ok .arpSlot ∧
  decode 0x00000040#32 = .ok .classify ∧ decode 0x00000041#32 = .ok .arpReq ∧ decode 0x00000042#32 = .ok .ipTxHdr ∧
  decode 0x00000050#32 = .ok (.portOpen .udp) ∧ decode 0x00000150#32 = .ok (.portOpen .tcp) ∧
  decode 0x00000051#32 = .ok (.portClose .udp) ∧ decode 0x00000151#32 = .ok (.portClose .tcp) ∧
  decode 0x00000052#32 = .ok (.portFind .udp) ∧ decode 0x00000152#32 = .ok (.portFind .tcp) ∧
  decode 0x00000053#32 = .ok (.sessAdd .udp) ∧ decode 0x00000153#32 = .ok (.sessAdd .tcp) ∧
  decode 0x00000054#32 = .ok (.sessRemove .udp) ∧ decode 0x00000154#32 = .ok (.sessRemove .tcp) ∧
  decode 0x00000055#32 = .ok (.sessGet .udp) ∧ decode 0x00000155#32 = .ok (.sessGet .tcp) ∧
  decode 0x00000056#32 = .ok (.sessLookup .udp) ∧ decode 0x00000156#32 = .ok (.sessLookup .tcp) ∧
  decode 0x00000157#32 = .ok .tcpSet ∧ decode 0x00000158#32 = .ok .tcpGet

/-- Decode and encode agree, for every word and every command (R82, R83): the words that decode to a command are exactly its
encoding. -/
def Obligations.DecodeInvertsEncodeExactly : Prop :=
  ∀ (w : Word) (i : Instr), decode w = .ok i ↔ w = encode i

/-- R83: the words outside the opcode map (an unassigned OP, a wrong T, a reserved bit set) are exactly those that decode to
no command, and executing one changes nothing but STATUS.RC. -/
def Obligations.ReservedWordsRaiseIllegal : Prop :=
  (∀ w : Word, commandWordWf w = true ↔ ∃ i, decode w = .ok i) ∧
  ∀ s : State, s.busy = true → commandWordWf s.cmd = false →
    (s.inputs = [] → step s = .next { s with rc := .illegal, busy := false }) ∧
    ∀ rest, s.inputs = .blockRuns :: rest → step s = .next { s with inputs := rest, rc := .illegal, busy := false }

/-! ### The machine: the block's turn and the host's -/

/-- R270: a step at the block's turn with a pending command runs exactly the decoded command. -/
def Obligations.StepRunsTheDecodedCommand : Prop :=
  ∀ (s : State) (i : Instr), s.busy = true → decode s.cmd = .ok i →
    (s.inputs = [] → step s = exec i s) ∧
    ∀ rest, s.inputs = .blockRuns :: rest → step s = exec i { s with inputs := rest }

/-- R275: a CMD write while BUSY = 1 is lost and recorded in OVR alone, and OVR then stays 1 until a STATUS write with bit 16
set, a completed RESET, or power-on (the power cycle as an input is the model's, log 11). -/
def Obligations.OverrunFlagLastsUntilCleared : Prop :=
  (∀ (s : State) (v : Word) (rest : List Input),
    s.inputs = .host (.write s.fixed.base 4 v) :: rest → s.busy = true →
    step s = .next { s with inputs := rest, ovr := true }) ∧
  ∀ s t : State, s.ovr = true → step s = .next t → t.ovr = false →
    (∃ v rest, s.inputs = .host (.write (s.fixed.base + 4) 4 v) :: rest ∧ v.getLsbD 16 = true) ∨
    (s.busy = true ∧ decode s.cmd = .ok .reset ∧ (s.inputs = [] ∨ ∃ rest, s.inputs = .blockRuns :: rest)) ∨
    ∃ rest, s.inputs = .powerCycle :: rest

/-- R24, R25, R87: the layout of STATUS and the codes of OWN and RC, its write-1-to-clear bit, that no command writes OVR except
RESET, which clears it, and that a CMD write leaves RC as it was. -/
def Obligations.StatusRegisterBehaves : Prop :=
  (Own.free.code = 0#2 ∧ Own.rx.code = 1#2 ∧ Own.tx.code = 2#2) ∧
  (ResultCode.ok.code = 0#4 ∧ ResultCode.miss.code = 1#4 ∧ ResultCode.full.code = 2#4 ∧ ResultCode.existing.code = 3#4 ∧
    ResultCode.badOperand.code = 8#4 ∧ ResultCode.illegal.code = 9#4 ∧ ResultCode.owned.code = 10#4) ∧
  (∀ s : State, s.status.getLsbD 0 = s.busy ∧ s.status.extractLsb' 4 4 = s.rc.code ∧
    s.status.extractLsb' 8 2 = s.own.code ∧ s.status.getLsbD 16 = s.ovr ∧ s.status &&& 0xFFFEFC0E#32 = 0#32) ∧
  (∀ (s : State) (v : Word) (rest : List Input), s.inputs = .host (.write (s.fixed.base + 4) 4 v) :: rest →
    step s = .next { s with inputs := rest, ovr := s.ovr && !v.getLsbD 16 }) ∧
  (∀ (i : Instr) (s t : State), exec i s = .next t → t.ovr = if i = .reset then false else s.ovr) ∧
  (∀ (s : State) (v : Word), (s.latch v).rc = s.rc) ∧
  State.reset.status = 0#32

/-- R303, R64 (U1, U3): where a host access stops. A write of an operand or configuration register while BUSY = 1 is the
model's fault, and an access that is not an aligned 32-bit word is refused. -/
def Obligations.HostAccessesOutsideTheContractStop : Prop :=
  (∀ (s : State) (off : Nat) (v : Word) (rest : List Input),
    off ∈ [0x08, 0x0C, 0x10, 0x14, 0x28, 0x2C, 0x30, 0x34, 0x38] → s.busy = true →
    s.inputs = .host (.write (s.fixed.base + off) 4 v) :: rest → step s = .fault .hostWriteWhileBusy) ∧
  ∀ (s : State) (off size : Nat) (v : Word) (rest : List Input), off < 256 → (size ≠ 4 ∨ off % 4 ≠ 0) →
    (s.inputs = .host (.read (s.fixed.base + off) size) :: rest → step s = .refused .hostAccessNotAWord) ∧
    (s.inputs = .host (.write (s.fixed.base + off) size v) :: rest → step s = .refused .hostAccessNotAWord)

/-- R80, R66, R303: a host read of each register of the map returns its value, a reserved offset reads 0, and no read has a
side effect; while BUSY = 1 this holds of every register but RES0..RES3, IP_ID and CSUM_ACC, whose reads return some value (U2;
`readData` and `freeReads` are the model's own, logs 5 and 7). -/
def Obligations.HostReadReturnsTheMappedRegister : Prop :=
  (∀ (s : State) (off : Nat) (rest : List Input), s.busy = true → off ∈ [0x18, 0x1C, 0x20, 0x24, 0x3C, 0x40] →
    s.inputs = .host (.read (s.fixed.base + off) 4) :: rest →
    ∃ v, step s = .next { s with inputs := rest, readData := some v, freeReads := s.freeReads + 1 }) ∧
  ∀ (s : State) (off : Nat) (v : Word) (rest : List Input),
    ((off, v) ∈ [
      (0x00, s.cmd), (0x04, s.status), (0x08, s.arg0), (0x0C, s.arg1), (0x10, s.arg2), (0x14, s.arg3),
      (0x18, s.res0), (0x1C, s.res1), (0x20, s.res2), (0x24, s.res3),
      (0x28, s.localMac.extractLsb' 16 32), (0x2C, 0#16 ++ s.localMac.extractLsb' 0 16),
      (0x30, s.localIp), (0x34, s.netmask), (0x38, s.gateway), (0x3C, 0#16 ++ s.ipId), (0x40, s.csumAcc),
      (0x44, 0#8 ++ BitVec.ofNat 8 s.tcp.length ++ BitVec.ofNat 8 s.udp.length ++ BitVec.ofNat 8 s.arp.length),
      (0x48, s.fixed.arpTtlMax ++ BitVec.ofNat 8 s.appTcp.length ++ BitVec.ofNat 8 s.appUdp.length),
      (0x4C, 0#8 ++ s.fixed.ipTtl ++ BitVec.ofNat 16 s.fixed.bufSize)] ∨
      (0x50 ≤ off ∧ off < 0x100 ∧ off % 4 = 0 ∧ v = 0#32)) →
    (s.busy = false ∨ off ∉ [0x18, 0x1C, 0x20, 0x24, 0x3C, 0x40]) →
    s.inputs = .host (.read (s.fixed.base + off) 4) :: rest →
    step s = .next { s with inputs := rest, readData := some v }

/-- R80, R66, R22: with no command pending a host write stores the value in an operand or configuration register and a CMD
write starts a command; a write to a read-only or reserved register is ignored (while BUSY = 1 too: DEDUCED, log 8). -/
def Obligations.HostWriteStoresStartsOrIsIgnored : Prop :=
  (∀ (s u : State) (off : Nat) (v : Word) (rest : List Input),
    (off, u) ∈ [
      (0x00, { s with cmd := v, busy := true }),
      (0x08, { s with arg0 := v }), (0x0C, { s with arg1 := v }), (0x10, { s with arg2 := v }), (0x14, { s with arg3 := v }),
      (0x28, { s with localMac := v ++ s.localMac.extractLsb' 0 16 }),
      (0x2C, { s with localMac := s.localMac.extractLsb' 16 32 ++ v.extractLsb' 0 16 }),
      (0x30, { s with localIp := v }), (0x34, { s with netmask := v }), (0x38, { s with gateway := v })] →
    s.busy = false → s.inputs = .host (.write (s.fixed.base + off) 4 v) :: rest →
    step s = .next { u with inputs := rest }) ∧
  ∀ (s : State) (off : Nat) (v : Word) (rest : List Input),
    (off ∈ [0x18, 0x1C, 0x20, 0x24, 0x3C, 0x40, 0x44, 0x48, 0x4C] ∨ (0x50 ≤ off ∧ off < 0x100 ∧ off % 4 = 0)) →
    s.inputs = .host (.write (s.fixed.base + off) 4 v) :: rest → step s = .next { s with inputs := rest }

/-- R97: a command statement of the assembler, run from a state with no command pending, executes the command once on the
state with the given ARG registers written, and its WAIT reads the resulting STATUS (the turns of WAIT are the model's, log
19). -/
def Obligations.CommandStatementRunsTheCommand : Prop :=
  ∀ (s : State) (i : Instr) (args : List Word), args.length ≤ 4 → s.busy = false →
    s.inputs = asmCommand s.fixed.base i args →
    ∃ t, exec i { s with
            arg0 := args.getD 0 s.arg0, arg1 := args.getD 1 s.arg1, arg2 := args.getD 2 s.arg2, arg3 := args.getD 3 s.arg3
            cmd := encode i, busy := true, inputs := [asmRd s.fixed.base .status] } = .next t ∧
      Host.Core.run Sys2Proof.core (args.length + 3) s = .next { t with inputs := [], readData := some t.status }

/-! ### Rules over all commands -/

/-- R270: every command, in every state, ends with a next state and BUSY = 0. -/
def Obligations.EveryCommandCompletes : Prop :=
  ∀ (i : Instr) (s : State), ∃ t, exec i s = .next t ∧ t.busy = false

/-- R271: a command word whose run ends with an error code leaves everything but STATUS.RC (and BUSY, which returns to 0) as it
was; the error codes are 8, 9 and 10. -/
def Obligations.ErrorCodeMeansNothingElseChanged : Prop :=
  ResultCode.badOperand.code = 8#4 ∧ ResultCode.illegal.code = 9#4 ∧ ResultCode.owned.code = 10#4 ∧
  ∀ (w : Word) (s t : State), runCommand w s = .next t →
    (t.rc = .badOperand ∨ t.rc = .illegal ∨ t.rc = .owned) → t = { s with rc := t.rc, busy := false }

/-- R272, R242 item 6: after MISS, FULL or EXISTS only RES registers and RC differ. -/
def Obligations.UnsuccessfulOutcomeChangesNoTable : Prop :=
  ∀ (i : Instr) (s t : State), exec i s = .next t → (t.rc = .miss ∨ t.rc = .full ∨ t.rc = .existing) →
    t = { s with res0 := t.res0, res1 := t.res1, res2 := t.res2, res3 := t.res3, rc := t.rc, busy := false }

/-- R21, R25, R27, R28, R29: which commands write which register. Apart from RESET: no command writes ARG, CMD, OVR or a
configuration register; CSUM_ACC, IP_ID and OWN are written only by the commands the rules name. -/
def Obligations.OnlyNamedCommandsWriteEachRegister : Prop :=
  ∀ (i : Instr) (s t : State), i ≠ .reset → exec i s = .next t →
    (t.arg0 = s.arg0 ∧ t.arg1 = s.arg1 ∧ t.arg2 = s.arg2 ∧ t.arg3 = s.arg3) ∧ t.cmd = s.cmd ∧ t.ovr = s.ovr ∧
    (t.localMac = s.localMac ∧ t.localIp = s.localIp ∧ t.netmask = s.netmask ∧ t.gateway = s.gateway) ∧
    (t.csumAcc = s.csumAcc ∨ i ∈ [.csumInit, .csumAdd, .csumAddw, .csum]) ∧
    (t.ipId = s.ipId ∨ i = .ipTxHdr) ∧
    (t.own = s.own ∨ i ∈ [.bufRelease, .classify, .arpReq, .ipTxHdr]) ∧
    (t.fixed = s.fixed ∧ t.inputs = s.inputs ∧ t.readData = s.readData ∧ t.freeReads = s.freeReads ∧ t.powerOns = s.powerOns)

/-- R65, R208, R242 item 3: which commands write which table, and which bytes of BUF a command can change; RESET changes no
byte of BUF (R301). -/
def Obligations.OnlyNamedCommandsWriteTablesAndBuffer : Prop :=
  ∀ (i : Instr) (s t : State), exec i s = .next t →
    (t.arp = s.arp ∨ i ∈ [.reset, .arpAdd, .arpTick, .classify]) ∧
    (t.udp = s.udp ∨ i ∈ [.reset, .sessAdd .udp, .sessRemove .udp]) ∧
    (t.tcp = s.tcp ∨ i ∈ [.reset, .sessAdd .tcp, .sessRemove .tcp, .tcpSet]) ∧
    (t.appUdp = s.appUdp ∨ i ∈ [.reset, .portOpen .udp, .portClose .udp, .sessRemove .udp]) ∧
    (t.appTcp = s.appTcp ∨ i ∈ [.reset, .portOpen .tcp, .portClose .tcp, .sessRemove .tcp]) ∧
    ∀ a, t.bufByte a = s.bufByte a ∨
      (i = .bufWr ∧ s.arg0.toNat ≤ a ∧ a < s.arg0.toNat + s.arg1.toNat) ∨
      (i = .classify ∧ t.own = .tx ∧ a < 42) ∨ (i = .arpReq ∧ a < 42) ∨ (i = .ipTxHdr ∧ a < 34)

/-- R37, R173: every step of the machine, whoever's turn it is, keeps the invariant, from every state that has it. -/
def Obligations.StepKeepsInvariant : Prop :=
  ∀ s t : State, s.Inv → step s = .next t → t.Inv

/-- R37, R39, R7: the power-on state has the invariant, for every choice of the parameters in their ranges, the defaults
among them. -/
def Obligations.ResetMeetsInvariant : Prop :=
  State.reset.Inv ∧ ∀ p : Config.Params, p.inRange = true → (State.resetWith p).Inv

/-- R7, R20, R35: no step changes a parameter or a table's capacity, so the CAPS registers are constants. -/
def Obligations.StepKeepsParametersAndCapacities : Prop :=
  ∀ s t : State, step s = .next t →
    t.fixed = s.fixed ∧ t.nArp = s.nArp ∧ (∀ tb, t.nSess tb = s.nSess tb) ∧ (∀ tb, t.nApp tb = s.nApp tb) ∧
    t.caps0 = s.caps0 ∧ t.caps1 = s.caps1 ∧ t.caps2 = s.caps2

/-- R39, R300: the values the spec states for power-on reset, for every choice of the parameters, and the default parameters
of R7. -/
def Obligations.PowerOnResetValues : Prop :=
  (∀ p : Config.Params, ∀ s : State, s = State.resetWith p →
    (s.arg0 = 0#32 ∧ s.arg1 = 0#32 ∧ s.arg2 = 0#32 ∧ s.arg3 = 0#32) ∧ s.cmd = 0#32 ∧
    (s.res0 = 0#32 ∧ s.res1 = 0#32 ∧ s.res2 = 0#32 ∧ s.res3 = 0#32) ∧ s.status = 0#32 ∧ s.pending = none ∧
    (s.localMac = 0#48 ∧ s.localIp = 0#32 ∧ s.netmask = 0#32 ∧ s.gateway = 0#32) ∧ s.ipId = 0#16 ∧ s.csumAcc = 0#32 ∧
    s.nArp = p.nArp ∧ s.nSess .udp = p.nUdp ∧ s.nSess .tcp = p.nTcp ∧ s.nApp .udp = p.nAppUdp ∧ s.nApp .tcp = p.nAppTcp ∧
    (∀ i, i < s.nArp → s.arpAt i = ⟨0#32, 0#48, 0#16⟩) ∧
    (∀ tb i, i < s.nSess tb → (s.sessAt tb i).socket = BitVec.ofNat 8 (s.nSess tb)) ∧
    (∀ tb j, j < s.nApp tb → s.appAt tb j = ⟨0#16, 0#32, 0#32⟩)) ∧
  State.reset = State.resetWith ⟨⟨30#16, 64#8, 1518, State.reset.fixed.base⟩, 5, 4, 4, 4, 4⟩

/-- R301, R282: a power cycle leaves what RESET leaves, and differs from it only in BUF, every byte of which is unspecified anew
(U4). That the session slots' fields other than `socket` are the same after both is the model's choice (DESIGN CHOICE, unsafe,
log 6): R301 and U5 leave them unspecified and unobservable after either reset. That power can go off between any two turns is
the model's input (log 11), and `powerOns` is the model's own (log 4). -/
def Obligations.PowerCycleDiffersFromResetOnlyInBuf : Prop :=
  ∀ (s : State) (rest : List Input), s.inputs = .powerCycle :: rest →
    ∃ t u, exec .reset s = .next t ∧ step s = .next u ∧
      u = { t with inputs := rest, buf := [], powerOns := s.powerOns + 1 } ∧
      (∀ a, t.bufByte a = s.bufByte a) ∧ ∀ a, u.bufByte a = Config.powerOnByte (s.powerOns + 1) a

/-! ### Control and buffer -/

/-- R120 NOP. -/
def Obligations.NopOnlyReportsOk : Prop :=
  (∀ w : Word, w.toNat % 2 ^ 8 = 0 → (decode w = .ok .nop ↔ w = 0#32) ∧ (w ≠ 0#32 → ∃ e, decode w = .error e)) ∧
  ∀ s : State, exec .nop s = .next { s with rc := .ok, busy := false }

/-- R121 RESET, its pseudocode and flags: every register and table but BUF goes to its reset value. Its corner case on which
frames CLASSIFY accepts afterwards is not stated here (log 20). -/
def Obligations.ResetCommandRestoresEverythingButBuf : Prop :=
  decode 0x00000001#32 = .ok .reset ∧
  ∀ s : State, ∃ t, exec .reset s = .next t ∧
    t = { s with
          arg0 := 0#32, arg1 := 0#32, arg2 := 0#32, arg3 := 0#32, cmd := 0#32
          busy := false, rc := .ok, own := .free, ovr := false
          res0 := 0#32, res1 := 0#32, res2 := 0#32, res3 := 0#32
          localMac := 0#48, localIp := 0#32, netmask := 0#32, gateway := 0#32, ipId := 0#16, csumAcc := 0#32
          arp := t.arp, udp := t.udp, tcp := t.tcp, appUdp := t.appUdp, appTcp := t.appTcp } ∧
    t.nArp = s.nArp ∧ (∀ tb, t.nSess tb = s.nSess tb) ∧ (∀ tb, t.nApp tb = s.nApp tb) ∧
    (∀ i, i < s.nArp → t.arpAt i = ⟨0#32, 0#48, 0#16⟩) ∧
    (∀ tb i, i < s.nSess tb → (t.sessAt tb i).socket = BitVec.ofNat 8 (s.nSess tb)) ∧
    (∀ tb i, s.nSess tb ≤ 254 → t.inUse tb i = false) ∧
    (∀ tb j, j < s.nApp tb → t.appAt tb j = ⟨0#16, 0#32, 0#32⟩)

/-- R130 BUF_RD. -/
def Obligations.BufRdReadsBigEndian : Prop :=
  decode 0x00000010#32 = .ok .bufRd ∧
  ∀ s : State,
    ((s.arg1.toNat ≠ 1 ∧ s.arg1.toNat ≠ 2 ∧ s.arg1.toNat ≠ 4) ∨ s.fixed.bufSize < s.arg0.toNat + s.arg1.toNat →
      exec .bufRd s = .next { s with rc := .badOperand, busy := false }) ∧
    (s.arg0.toNat + s.arg1.toNat ≤ s.fixed.bufSize →
      (s.arg1.toNat = 1 → exec .bufRd s = .next { s with res0 := BitVec.ofNat 32 (s.be8 s.arg0.toNat), rc := .ok, busy := false }) ∧
      (s.arg1.toNat = 2 → exec .bufRd s = .next { s with res0 := BitVec.ofNat 32 (s.be16 s.arg0.toNat), rc := .ok, busy := false }) ∧
      (s.arg1.toNat = 4 → exec .bufRd s = .next { s with res0 := BitVec.ofNat 32 (s.be32 s.arg0.toNat), rc := .ok, busy := false }))

/-- R131 BUF_WR: the bytes ARG0 .. ARG0+ARG1-1 take the low bytes of ARG2, most significant first, and no other byte
changes. -/
def Obligations.BufWrWritesBigEndian : Prop :=
  decode 0x00000011#32 = .ok .bufWr ∧
  ∀ s : State,
    ((s.arg1.toNat ≠ 1 ∧ s.arg1.toNat ≠ 2 ∧ s.arg1.toNat ≠ 4) ∨ s.fixed.bufSize < s.arg0.toNat + s.arg1.toNat →
      exec .bufWr s = .next { s with rc := .badOperand, busy := false }) ∧
    ((s.arg1.toNat = 1 ∨ s.arg1.toNat = 2 ∨ s.arg1.toNat = 4) → s.arg0.toNat + s.arg1.toNat ≤ s.fixed.bufSize →
      ∃ t, exec .bufWr s = .next t ∧ t = { s with buf := t.buf, rc := .ok, busy := false } ∧
        ∀ a, t.bufByte a =
          if s.arg0.toNat ≤ a ∧ a < s.arg0.toNat + s.arg1.toNat then
            BitVec.ofNat 8 (s.arg2.toNat / 256 ^ (s.arg0.toNat + s.arg1.toNat - 1 - a))
          else s.bufByte a)

/-- R132 BUF_RELEASE. -/
def Obligations.BufReleaseFreesTheBuffer : Prop :=
  decode 0x00000012#32 = .ok .bufRelease ∧
  ∀ s : State, exec .bufRelease s = .next { s with own := .free, rc := .ok, busy := false }

/-! ### Checksum -/

/-- R143 CSUM_INIT. -/
def Obligations.CsumInitLoadsTheAccumulator : Prop :=
  decode 0x00000020#32 = .ok .csumInit ∧
  ∀ s : State, exec .csumInit s = .next { s with csumAcc := s.arg0, rc := .ok, busy := false }

/-- R144 CSUM_ADD, with R141 and R140 as arithmetic: the accumulator becomes the end-around-carry sum of its old value and the
range's exact word sum. -/
def Obligations.CsumAddAddsTheRange : Prop :=
  decode 0x00000021#32 = .ok .csumAdd ∧
  ∀ s : State,
    (s.fixed.bufSize < s.arg0.toNat + s.arg1.toNat →
      exec .csumAdd s = .next { s with rc := .badOperand, busy := false }) ∧
    (s.arg0.toNat + s.arg1.toNat ≤ s.fixed.bufSize →
      ∃ acc, EndAroundSum acc (s.csumAcc.toNat + s.wordSum s.arg0.toNat s.arg1.toNat) ∧
        exec .csumAdd s = .next { s with csumAcc := acc, rc := .ok, busy := false })

/-- R145 CSUM_ADDW, with R140: an end-around carry out of bit 31. -/
def Obligations.CsumAddwAddsOneWord : Prop :=
  decode 0x00000022#32 = .ok .csumAddw ∧
  ∀ s : State, ∃ acc : Word, exec .csumAddw s = .next { s with csumAcc := acc, rc := .ok, busy := false } ∧
    acc.toNat = if s.csumAcc.toNat + s.arg0.toNat % 2 ^ 16 < 2 ^ 32 then s.csumAcc.toNat + s.arg0.toNat % 2 ^ 16
      else s.csumAcc.toNat + s.arg0.toNat % 2 ^ 16 - 2 ^ 32 + 1

/-- R146 CSUM_FINAL, with R142 as arithmetic modulo 0xFFFF: 0 gives 0xFFFF, any other multiple of 0xFFFF gives 0. -/
def Obligations.CsumFinalGivesTheChecksum : Prop :=
  decode 0x00000023#32 = .ok .csumFinal ∧
  ∀ s : State, exec .csumFinal s =
    .next { s with res0 := BitVec.ofNat 32 (checksumValue s.csumAcc.toNat), rc := .ok, busy := false }

/-- R147 CSUM. -/
def Obligations.CsumChecksumsTheRange : Prop :=
  decode 0x00000024#32 = .ok .csum ∧
  ∀ s : State,
    (s.fixed.bufSize < s.arg0.toNat + s.arg1.toNat →
      exec .csum s = .next { s with rc := .badOperand, busy := false }) ∧
    (s.arg0.toNat + s.arg1.toNat ≤ s.fixed.bufSize →
      ∃ acc, EndAroundSum acc (s.arg2.toNat + s.wordSum s.arg0.toNat s.arg1.toNat) ∧
        exec .csum s = .next { s with
          csumAcc := acc, res0 := BitVec.ofNat 32 (checksumValue acc.toNat), rc := .ok, busy := false })

/-- R148, round trip: over a region of even length whose checksum field, at an even offset inside it, is zero, write the
checksum into the field; the checksum of the region is then 0. -/
def Obligations.ChecksumRoundTripGivesZero : Prop :=
  ∀ (s : State) (f : Nat), s.arg2 = 0#32 → s.arg0.toNat + s.arg1.toNat ≤ s.fixed.bufSize → s.arg1.toNat % 2 = 0 →
    f % 2 = 0 → f + 2 ≤ s.arg1.toNat → s.be16 (s.arg0.toNat + f) = 0 →
    ∃ t v, exec .csum s = .next t ∧
      exec .csum (t.memWrite (s.arg0.toNat + f) 2 t.res0.toNat) = .next v ∧ v.res0 = 0#32

/-- R151, R149: a message summed in two pieces gives the accumulator of the whole when the first piece has even length. -/
def Obligations.EvenRangesChain : Prop :=
  ∀ (s : State) (off n m : Word), n.toNat % 2 = 0 → off.toNat + n.toNat + m.toNat ≤ s.fixed.bufSize →
    s.fixed.bufSize ≤ 65535 →
    ∃ t u v, exec .csumAdd { s with arg0 := off, arg1 := n } = .next t ∧
      exec .csumAdd { t with arg0 := off + n, arg1 := m } = .next u ∧
      exec .csumAdd { s with arg0 := off, arg1 := n + m } = .next v ∧ u.csumAcc = v.csumAcc

/-! ### ARP cache -/

/-- R165 ARP_ADD, with R162: refresh, insert into the lowest empty slot, or FULL. -/
def Obligations.ArpAddRefreshesOrInserts : Prop :=
  decode 0x00000030#32 = .ok .arpAdd ∧
  ∀ s : State,
    (s.arg0 = 0#32 → exec .arpAdd s = .next { s with rc := .badOperand, busy := false }) ∧
    (∀ i, s.arg0 ≠ 0#32 → LeastIndex s.nArp (s.arpHolds s.arg0) i →
      exec .arpAdd s = .next { s with
        arp := s.arp.set i { s.arpAt i with ttl := s.fixed.arpTtlMax }, res0 := BitVec.ofNat 32 i, rc := .ok, busy := false }) ∧
    (∀ j, s.arg0 ≠ 0#32 → NoIndex s.nArp (s.arpHolds s.arg0) → LeastIndex s.nArp (s.arpHolds 0#32) j →
      exec .arpAdd s = .next { s with
        arp := s.arp.set j ⟨s.arg0, s.arg1 ++ s.arg2.extractLsb' 0 16, s.fixed.arpTtlMax⟩
        res0 := BitVec.ofNat 32 j, rc := .ok, busy := false }) ∧
    (s.arg0 ≠ 0#32 → NoIndex s.nArp (s.arpHolds s.arg0) → NoIndex s.nArp (s.arpHolds 0#32) →
      exec .arpAdd s = .next { s with res0 := BitVec.ofNat 32 s.nArp, rc := .full, busy := false })

/-- R166 ARP_GET. -/
def Obligations.ArpGetFindsTheSlot : Prop :=
  decode 0x00000031#32 = .ok .arpGet ∧
  ∀ s : State,
    (s.arg0 = 0#32 ∨ NoIndex s.nArp (s.arpHolds s.arg0) →
      exec .arpGet s = .next { s with
        res0 := BitVec.ofNat 32 s.nArp, res1 := 0#32, res2 := 0#32, res3 := 0#32, rc := .miss, busy := false }) ∧
    ∀ i, s.arg0 ≠ 0#32 → LeastIndex s.nArp (s.arpHolds s.arg0) i →
      exec .arpGet s = .next { s with
        res0 := BitVec.ofNat 32 i, res1 := (s.arpAt i).mac.extractLsb' 16 32
        res2 := 0#16 ++ (s.arpAt i).mac.extractLsb' 0 16, res3 := 0#16 ++ (s.arpAt i).ttl, rc := .ok, busy := false }

/-- R167 ARP_RESOLVE, with R164 and R161. -/
def Obligations.ArpResolveGivesTheDestination : Prop :=
  decode 0x00000032#32 = .ok .arpResolve ∧
  ∀ (s : State) (mac : Mac) (k : Nat) (key : IPv4), s.ResolvesTo s.arg0 mac k key →
    exec .arpResolve s = .next { s with
      res0 := BitVec.ofNat 32 k, res1 := mac.extractLsb' 16 32, res2 := 0#16 ++ mac.extractLsb' 0 16, res3 := key
      rc := if k = 0 then .miss else .ok, busy := false }

/-- R168 ARP_TICK: every live slot ages by one second, a slot at its last second is emptied, and RES0 counts those. -/
def Obligations.ArpTickAgesAndEvicts : Prop :=
  decode 0x00000033#32 = .ok .arpTick ∧
  ∀ s : State, ∃ t, exec .arpTick s = .next t ∧
    t = { s with
      arp := t.arp, rc := .ok, busy := false
      res0 := BitVec.ofNat 32
        ((List.range s.nArp).countP (fun i => (s.arpAt i).ip ≠ 0#32 ∧ (s.arpAt i).ttl = 1#16)) } ∧
    t.nArp = s.nArp ∧
    ∀ i, i < s.nArp →
      ((s.arpAt i).ip = 0#32 → t.arpAt i = s.arpAt i) ∧
      ((s.arpAt i).ip ≠ 0#32 → (s.arpAt i).ttl = 1#16 → t.arpAt i = ⟨0#32, 0#48, 0#16⟩) ∧
      ((s.arpAt i).ip ≠ 0#32 → 1 < (s.arpAt i).ttl.toNat →
        t.arpAt i = { s.arpAt i with ttl := BitVec.ofNat 16 ((s.arpAt i).ttl.toNat - 1) })

/-- R169 ARP_STAT. -/
def Obligations.ArpStatCountsLiveSlots : Prop :=
  decode 0x00000034#32 = .ok .arpStat ∧
  ∀ (s : State) (n : Nat), n = (List.range s.nArp).countP (fun i => (s.arpAt i).ip ≠ 0#32) →
    exec .arpStat s = .next { s with
      res0 := if n = s.nArp then 1#32 else 0#32, res1 := BitVec.ofNat 32 n, rc := .ok, busy := false }

/-- R170 ARP_SLOT. -/
def Obligations.ArpSlotReadsOneSlot : Prop :=
  decode 0x00000035#32 = .ok .arpSlot ∧
  ∀ s : State,
    (s.nArp ≤ s.arg0.toNat → exec .arpSlot s = .next { s with rc := .badOperand, busy := false }) ∧
    ∀ e, s.arp[s.arg0.toNat]? = some e →
      exec .arpSlot s = .next { s with
        res0 := e.ip, res1 := e.mac.extractLsb' 16 32, res2 := 0#16 ++ e.mac.extractLsb' 0 16, res3 := 0#16 ++ e.ttl
        rc := .ok, busy := false }

/-- R171: an entry with ttl T that nothing refreshes keeps its ip and mac for T - 1 ticks, is gone after T, and stays gone. -/
def Obligations.ArpEntryExpiresAfterItsTtl : Prop :=
  ∀ (k : Nat) (s : State) (i : Nat), i < s.nArp → (s.arpAt i).ip ≠ 0#32 → (s.arpAt i).ttl ≠ 0#16 →
    ∃ t, repeatCommand .arpTick k s = .next t ∧ t.nArp = s.nArp ∧
      (k < (s.arpAt i).ttl.toNat →
        t.arpAt i = { s.arpAt i with ttl := BitVec.ofNat 16 ((s.arpAt i).ttl.toNat - k) }) ∧
      ((s.arpAt i).ttl.toNat ≤ k → t.arpAt i = ⟨0#32, 0#48, 0#16⟩)

/-- R163 learn, with R161 and R162: what CLASSIFY does to the cache for a sender. -/
def Obligations.LearnRefreshesOrInsertsTheKey : Prop :=
  ∀ (s : State) (ip : IPv4) (mac : Mac),
    (ip = 0#32 ∨ s.redirectKey ip = 0#32 → s.learn ip mac = s) ∧
    (ip ≠ 0#32 → s.redirectKey ip ≠ 0#32 →
      (∀ i, LeastIndex s.nArp (s.arpHolds (s.redirectKey ip)) i →
        s.learn ip mac = { s with arp := s.arp.set i { s.arpAt i with ttl := s.fixed.arpTtlMax } }) ∧
      (NoIndex s.nArp (s.arpHolds (s.redirectKey ip)) →
        (∀ j, LeastIndex s.nArp (s.arpHolds 0#32) j →
          s.learn ip mac = { s with arp := s.arp.set j ⟨s.redirectKey ip, mac, s.fixed.arpTtlMax⟩ }) ∧
        (NoIndex s.nArp (s.arpHolds 0#32) → s.learn ip mac = s)))

/-! ### Dispatcher -/

/-- R190, R274: CLASSIFY's operand check comes before its ownership check, and a frame shorter than an Ethernet header is
dropped with RC = OK. -/
def Obligations.ClassifyChecksLengthThenOwnership : Prop :=
  decode 0x00000040#32 = .ok .classify ∧
  ∀ s : State,
    (s.fixed.bufSize < s.arg0.toNat → exec .classify s = .next { s with rc := .badOperand, busy := false }) ∧
    (s.arg0.toNat ≤ s.fixed.bufSize → s.own ≠ .free → exec .classify s = .next { s with rc := .owned, busy := false }) ∧
    (s.arg0.toNat ≤ s.fixed.bufSize → s.own = .free → s.arg0.toNat < 14 →
      exec .classify s = .next { s with
        res0 := 0#32, res1 := 0#32, res2 := 0#32, res3 := 0#32, rc := .ok, busy := false })

/-- R194, R195: an ARP request for our address is learned from and answered in place; any other request is dropped, nothing
learned. The RES0 word is that of R191 and R204, its bits 7:6 zero as R204's pseudocode builds it (DEDUCED, log 16). -/
def Obligations.ClassifyAnswersArpRequest : Prop :=
  (∀ s : State, s.arpFrame 1 → (s.localIp = 0#32 ∨ s.be32 38 ≠ s.localIp.toNat) →
    exec .classify s = .next { s with
      rc := .ok, busy := false, res0 := 0#32, res1 := 0#32, res2 := 0#32, res3 := 0#32 }) ∧
  ∀ s : State, s.arpFrame 1 → s.localIp ≠ 0#32 → s.be32 38 = s.localIp.toNat →
    ∀ (sha : Mac) (spa : IPv4), sha = BitVec.ofNat 48 (s.be48 22) → spa = BitVec.ofNat 32 (s.be32 28) →
      ∃ t, exec .classify s = .next t ∧
        t = { s.learn spa sha with
          buf := t.buf, own := .tx, rc := .ok, busy := false
          res0 := BitVec.ofNat 32 (s.bcastBit + 1), res1 := spa, res2 := 0#32, res3 := 42#32 } ∧
        s.frameStaged t (macBytes sha ++ macBytes s.localMac ++
          [0x08#8, 0x06#8, 0x00#8, 0x01#8, 0x08#8, 0x00#8, 0x06#8, 0x04#8, 0x00#8, 0x02#8] ++
          macBytes s.localMac ++ ipBytes s.localIp ++ macBytes sha ++ ipBytes spa)

/-- R196: every well-formed ARP reply is learned from; OWN stays FREE. The RES0 word is that of R191 and R204, its bits 7:6
zero as R204's pseudocode builds it (DEDUCED, log 16). -/
def Obligations.ClassifyLearnsArpReply : Prop :=
  ∀ s : State, s.arpFrame 2 →
    ∀ (sha : Mac) (spa : IPv4), sha = BitVec.ofNat 48 (s.be48 22) → spa = BitVec.ofNat 32 (s.be32 28) →
      exec .classify s = .next { s.learn spa sha with
        rc := .ok, busy := false, res0 := BitVec.ofNat 32 (s.bcastBit + 2), res1 := spa, res2 := 0#32, res3 := 0#32 }

/-- R205, R191: an accepted ICMP frame is reported with its payload's extent; OWN becomes RX. The RES0 word is that of R191
and R204, its bits 7:6 zero as R204's pseudocode builds it (DEDUCED, log 16). That acceptance takes in a frame to IP 0 while
LOCAL_IP = 0 is the model's choice where R121 and R198 clash (log 20). -/
def Obligations.ClassifyReportsIcmp : Prop :=
  ∀ (s : State) (ihl tot : Nat), s.ipFrame ihl tot 1 → s.ipAccepted 1 →
    exec .classify s = .next { s.ipLearned with
      own := .rx, rc := .ok, busy := false
      res0 := BitVec.ofNat 32 (ihl * 2 ^ 24 + s.bcastBit + 3), res1 := BitVec.ofNat 32 (s.be32 26), res2 := 0#32
      res3 := BitVec.ofNat 32 ((14 + 4 * ihl) * 2 ^ 16 + (tot - 4 * ihl)) }

/-- R201, R203, R191: an accepted, well-formed UDP frame is reported with its ports, its payload's extent and the
demultiplexer's answer, and OWN becomes RX; an accepted UDP frame of bad lengths is dropped after its sender is learned. The
RES0 word is that of R191 and R204, its bits 7:6 zero as R204's pseudocode builds it (DEDUCED, log 16). That acceptance takes
in a frame to IP 0 while LOCAL_IP = 0 is the model's choice where R121 and R198 clash (log 20). -/
def Obligations.ClassifyReportsUdp : Prop :=
  (∀ (s : State) (ihl tot p : Nat), s.ipFrame ihl tot 17 → s.ipAccepted 17 → p = 14 + 4 * ihl →
    (tot - 4 * ihl < 8 ∨ s.be16 (p + 4) < 8 ∨ tot - 4 * ihl < s.be16 (p + 4)) →
    exec .classify s = .next { s.ipLearned with
      rc := .ok, busy := false, res0 := 0#32, res1 := 0#32, res2 := 0#32, res3 := 0#32 }) ∧
  ∀ (s : State) (ihl tot p ulen k idx : Nat), s.ipFrame ihl tot 17 → s.ipAccepted 17 →
    s.nSess .udp ≤ 254 → s.nApp .udp ≤ 254 →
    p = 14 + 4 * ihl → ulen = s.be16 (p + 4) → 8 ≤ ulen → ulen ≤ tot - 4 * ihl →
    s.DemuxAnswers .udp (BitVec.ofNat 32 (s.be32 26)) (BitVec.ofNat 16 (s.be16 p)) (BitVec.ofNat 16 (s.be16 (p + 2))) k idx →
    exec .classify s = .next { s.ipLearned with
      own := .rx, rc := .ok, busy := false
      res0 := BitVec.ofNat 32 (ihl * 2 ^ 24 + s.bcastBit + idx * 2 ^ 8 + k * 2 ^ 4 + 4)
      res1 := BitVec.ofNat 32 (s.be32 26), res2 := BitVec.ofNat 32 (s.be16 p * 2 ^ 16 + s.be16 (p + 2))
      res3 := BitVec.ofNat 32 ((p + 8) * 2 ^ 16 + (ulen - 8)) }

/-- R202, R203, R191: an accepted, well-formed TCP frame is reported with its flags, its ports, its payload's extent and the
demultiplexer's answer, and OWN becomes RX; an accepted TCP frame of bad lengths is dropped after its sender is learned. The
RES0 word is that of R191 and R204, its bits 7:6 zero as R204's pseudocode builds it (DEDUCED, log 16). That acceptance takes
in a frame to IP 0 while LOCAL_IP = 0 is the model's choice where R121 and R198 clash (log 20). -/
def Obligations.ClassifyReportsTcp : Prop :=
  (∀ (s : State) (ihl tot p : Nat), s.ipFrame ihl tot 6 → s.ipAccepted 6 → p = 14 + 4 * ihl →
    (tot - 4 * ihl < 20 ∨ s.be16 (p + 12) / 2 ^ 12 < 5 ∨ tot - 4 * ihl < 4 * (s.be16 (p + 12) / 2 ^ 12)) →
    exec .classify s = .next { s.ipLearned with
      rc := .ok, busy := false, res0 := 0#32, res1 := 0#32, res2 := 0#32, res3 := 0#32 }) ∧
  ∀ (s : State) (ihl tot p hw doff k idx : Nat), s.ipFrame ihl tot 6 → s.ipAccepted 6 →
    s.nSess .tcp ≤ 254 → s.nApp .tcp ≤ 254 →
    p = 14 + 4 * ihl → hw = s.be16 (p + 12) → doff = hw / 2 ^ 12 → 5 ≤ doff → 20 ≤ tot - 4 * ihl → 4 * doff ≤ tot - 4 * ihl →
    s.DemuxAnswers .tcp (BitVec.ofNat 32 (s.be32 26)) (BitVec.ofNat 16 (s.be16 p)) (BitVec.ofNat 16 (s.be16 (p + 2))) k idx →
    exec .classify s = .next { s.ipLearned with
      own := .rx, rc := .ok, busy := false
      res0 := BitVec.ofNat 32 (ihl * 2 ^ 24 + s.bcastBit + hw % 2 ^ 6 * 2 ^ 16 + idx * 2 ^ 8 + k * 2 ^ 4 + 5)
      res1 := BitVec.ofNat 32 (s.be32 26), res2 := BitVec.ofNat 32 (s.be16 p * 2 ^ 16 + s.be16 (p + 2))
      res3 := BitVec.ofNat 32 ((p + 4 * doff) * 2 ^ 16 + (tot - 4 * ihl - 4 * doff)) }

/-- R192, R193, R197, R198: the frames that are dropped with nothing learned. R199, R200: an accepted IP frame of an unknown
protocol is dropped after its sender is learned. That acceptance takes in a frame to IP 0 while LOCAL_IP = 0 is the model's
choice where R121 and R198 clash (log 20). -/
def Obligations.ClassifyDropsTheRest : Prop :=
  (∀ s : State, s.own = .free → s.arg0.toNat ≤ s.fixed.bufSize → 14 ≤ s.arg0.toNat →
    ((s.be16 12 ≠ 0x0806 ∧ s.be16 12 ≠ 0x0800) ∨
      (s.be16 12 = 0x0806 ∧ (s.arg0.toNat < 42 ∨ s.be16 14 ≠ 1 ∨ s.be16 16 ≠ 0x0800 ∨ s.be8 18 ≠ 6 ∨ s.be8 19 ≠ 4 ∨
        (s.be16 20 ≠ 1 ∧ s.be16 20 ≠ 2))) ∨
      (s.be16 12 = 0x0800 ∧ (s.arg0.toNat < 34 ∨ s.be8 14 / 16 ≠ 4 ∨ s.be8 14 % 16 < 5 ∨
        s.be16 16 < 4 * (s.be8 14 % 16) ∨ s.arg0.toNat < 14 + s.be16 16 ∨ ¬ s.ipAccepted (s.be8 23)))) →
    exec .classify s = .next { s with
      rc := .ok, busy := false, res0 := 0#32, res1 := 0#32, res2 := 0#32, res3 := 0#32 }) ∧
  ∀ (s : State) (ihl tot proto : Nat), s.ipFrame ihl tot proto → s.ipAccepted proto →
    proto ≠ 1 → proto ≠ 6 → proto ≠ 17 →
    exec .classify s = .next { s.ipLearned with
      rc := .ok, busy := false, res0 := 0#32, res1 := 0#32, res2 := 0#32, res3 := 0#32 }

/-- R190, "Bytes of BUF at or beyond L are never read": two states that differ only in bytes of BUF at or beyond the frame
length get the same answer, and afterwards still differ only there. -/
def Obligations.ClassifyReadsOnlyTheFrame : Prop :=
  ∀ (s t : State) (m : Memory), exec .classify s = .next t →
    (∀ a, a < s.arg0.toNat → ({ s with buf := m } : State).bufByte a = s.bufByte a) →
    ∃ t', exec .classify { s with buf := m } = .next t' ∧ t' = { t with buf := t'.buf } ∧
      ∀ a, a < s.arg0.toNat → t'.bufByte a = t.bufByte a

/-- R206 ARP_REQ, with R161. -/
def Obligations.ArpReqStagesARequest : Prop :=
  decode 0x00000041#32 = .ok .arpReq ∧
  ∀ s : State,
    (s.redirectKey s.arg0 = 0#32 → exec .arpReq s = .next { s with rc := .badOperand, busy := false }) ∧
    (s.redirectKey s.arg0 ≠ 0#32 → s.own ≠ .free → exec .arpReq s = .next { s with rc := .owned, busy := false }) ∧
    (s.redirectKey s.arg0 ≠ 0#32 → s.own = .free →
      ∃ t, exec .arpReq s = .next t ∧
        t = { s with
          buf := t.buf, own := .tx, rc := .ok, busy := false, res0 := 42#32, res3 := s.redirectKey s.arg0 } ∧
        s.frameStaged t ([0xFF#8, 0xFF#8, 0xFF#8, 0xFF#8, 0xFF#8, 0xFF#8] ++ macBytes s.localMac ++
          [0x08#8, 0x06#8, 0x00#8, 0x01#8, 0x08#8, 0x00#8, 0x06#8, 0x04#8, 0x00#8, 0x01#8] ++
          macBytes s.localMac ++ ipBytes s.localIp ++ [0#8, 0#8, 0#8, 0#8, 0#8, 0#8] ++ ipBytes (s.redirectKey s.arg0)))

/-- R207 IP_TX_HDR: the headers it builds, the checksum `c` it computes (the words of the header add up to a multiple of
0xFFFF, and `c` is not 0xFFFF, which determines it), and what it reports. -/
def Obligations.IpTxHdrBuildsTheHeaders : Prop :=
  decode 0x00000042#32 = .ok .ipTxHdr ∧
  ∀ (s : State) (plen : Nat), plen = s.arg1.toNat / 2 ^ 16 →
    (s.fixed.bufSize < 34 + plen → exec .ipTxHdr s = .next { s with rc := .badOperand, busy := false }) ∧
    (34 + plen ≤ s.fixed.bufSize → s.own ≠ .free → exec .ipTxHdr s = .next { s with rc := .owned, busy := false }) ∧
    ∀ (mac : Mac) (k : Nat) (key : IPv4), 34 + plen ≤ s.fixed.bufSize → s.own = .free → s.ResolvesTo s.arg0 mac k key →
      ∃ (t : State) (c : Half), exec .ipTxHdr s = .next t ∧
        t = { s with
          buf := t.buf, ipId := s.ipId + 1#16, own := .tx, rc := .ok, busy := false
          res0 := BitVec.ofNat 32 (34 + plen), res1 := 0#16 ++ c, res2 := BitVec.ofNat 32 k, res3 := key } ∧
        s.frameStaged t (macBytes mac ++ macBytes s.localMac ++ [0x08#8, 0x00#8, 0x45#8, 0x00#8] ++
          halfBytes (BitVec.ofNat 16 (20 + plen)) ++ halfBytes s.ipId ++
          [0x40#8, 0x00#8, s.fixed.ipTtl, s.arg1.extractLsb' 0 8] ++ halfBytes c ++ ipBytes s.localIp ++ ipBytes s.arg0) ∧
        t.wordSum 14 20 % 0xFFFF = 0 ∧ c ≠ 0xFFFF#16

/-! ### Sockets -/

/-- R233 PORT_OPEN. -/
def Obligations.PortOpenRegistersOnce : Prop :=
  decode 0x00000050#32 = .ok (.portOpen .udp) ∧ decode 0x00000150#32 = .ok (.portOpen .tcp) ∧
  ∀ (s : State) (tb : Table),
    (s.arg0.toNat = 0 ∨ 0xFFFF < s.arg0.toNat → exec (.portOpen tb) s = .next { s with rc := .badOperand, busy := false }) ∧
    ∀ port : Half, s.arg0 = 0#16 ++ port → port ≠ 0#16 →
      (∀ j, LeastIndex (s.nApp tb) (s.appHolds tb port) j →
        exec (.portOpen tb) s = .next { s with res0 := BitVec.ofNat 32 j, rc := .existing, busy := false }) ∧
      (NoIndex (s.nApp tb) (s.appHolds tb port) → NoIndex (s.nApp tb) (fun j => (s.appAt tb j).port = 0#16) →
        exec (.portOpen tb) s = .next { s with res0 := BitVec.ofNat 32 (s.nApp tb), rc := .full, busy := false }) ∧
      (∀ j, NoIndex (s.nApp tb) (s.appHolds tb port) → LeastIndex (s.nApp tb) (fun j => (s.appAt tb j).port = 0#16) j →
        ∃ t, exec (.portOpen tb) s = .next t ∧
          t = { s with appUdp := t.appUdp, appTcp := t.appTcp, res0 := BitVec.ofNat 32 j, rc := .ok, busy := false } ∧
          s.appsUpdated t tb j ⟨port, s.arg1, s.arg2⟩)

/-- R234 PORT_CLOSE. -/
def Obligations.PortCloseClearsTheRegistration : Prop :=
  decode 0x00000051#32 = .ok (.portClose .udp) ∧ decode 0x00000151#32 = .ok (.portClose .tcp) ∧
  ∀ (s : State) (tb : Table),
    (s.arg0.toNat = 0 ∨ 0xFFFF < s.arg0.toNat → exec (.portClose tb) s = .next { s with rc := .badOperand, busy := false }) ∧
    ∀ port : Half, s.arg0 = 0#16 ++ port → port ≠ 0#16 →
      (NoIndex (s.nApp tb) (s.appHolds tb port) →
        exec (.portClose tb) s = .next { s with res0 := BitVec.ofNat 32 (s.nApp tb), rc := .miss, busy := false }) ∧
      (∀ j, LeastIndex (s.nApp tb) (s.appHolds tb port) j →
        ∃ t, exec (.portClose tb) s = .next t ∧
          t = { s with appUdp := t.appUdp, appTcp := t.appTcp, res0 := BitVec.ofNat 32 j, rc := .ok, busy := false } ∧
          s.appsUpdated t tb j ⟨0#16, 0#32, 0#32⟩)

/-- R235 PORT_FIND. -/
def Obligations.PortFindReadsTheRegistration : Prop :=
  decode 0x00000052#32 = .ok (.portFind .udp) ∧ decode 0x00000152#32 = .ok (.portFind .tcp) ∧
  ∀ (s : State) (tb : Table),
    (s.arg0.toNat = 0 ∨ 0xFFFF < s.arg0.toNat → exec (.portFind tb) s = .next { s with rc := .badOperand, busy := false }) ∧
    ∀ port : Half, s.arg0 = 0#16 ++ port → port ≠ 0#16 →
      (NoIndex (s.nApp tb) (s.appHolds tb port) →
        exec (.portFind tb) s = .next { s with
          res0 := BitVec.ofNat 32 (s.nApp tb), res1 := 0#32, res2 := 0#32, rc := .miss, busy := false }) ∧
      (∀ j, LeastIndex (s.nApp tb) (s.appHolds tb port) j →
        exec (.portFind tb) s = .next { s with
          res0 := BitVec.ofNat 32 j, res1 := (s.appAt tb j).timeoutMs, res2 := (s.appAt tb j).tag, rc := .ok, busy := false })

/-- R236 SESS_ADD: EXISTS, FULL, or the lowest free slot with every field written. -/
def Obligations.SessAddTakesTheLowestFreeSlot : Prop :=
  decode 0x00000053#32 = .ok (.sessAdd .udp) ∧ decode 0x00000153#32 = .ok (.sessAdd .tcp) ∧
  ∀ (s : State) (tb : Table) (lp rp : Half), s.arg1 = lp ++ rp →
    (∀ h, LeastIndex (s.nSess tb) (s.sessHolds tb s.arg0 lp rp) h →
      exec (.sessAdd tb) s = .next { s with
        res0 := BitVec.ofNat 32 (s.nSess tb), res1 := BitVec.ofNat 32 h, rc := .existing, busy := false }) ∧
    (NoIndex (s.nSess tb) (s.sessHolds tb s.arg0 lp rp) → NoIndex (s.nSess tb) (fun i => s.inUse tb i = false) →
      exec (.sessAdd tb) s = .next { s with
        res0 := BitVec.ofNat 32 (s.nSess tb), res1 := BitVec.ofNat 32 (s.nSess tb), rc := .full, busy := false }) ∧
    (∀ i, NoIndex (s.nSess tb) (s.sessHolds tb s.arg0 lp rp) → LeastIndex (s.nSess tb) (fun i => s.inUse tb i = false) i →
      ∃ t, exec (.sessAdd tb) s = .next t ∧
        t = { s with
          udp := t.udp, tcp := t.tcp
          res0 := BitVec.ofNat 32 i, res1 := BitVec.ofNat 32 (s.nSess tb), rc := .ok, busy := false } ∧
        s.sessionsUpdated t tb i ⟨BitVec.ofNat 8 i, s.arg0, lp, rp, s.arg2, s.arg3.getLsbD 0⟩ ∧
        (tb = .tcp → (t.tcpAt i).lastSeq = 0#32 ∧ (t.tcpAt i).lastAck = 0#32 ∧
          (t.tcpAt i).connState = .handshakeOutgoing ∧ (t.tcpAt i).pendingAck = false ∧ (t.tcpAt i).pendingPush = false))

/-- R237 SESS_REMOVE: MISS for a handle not in use; else only the slot's `socket` changes, and, when the session says so, the
application on its local port is closed. -/
def Obligations.SessRemoveFreesTheSlot : Prop :=
  decode 0x00000054#32 = .ok (.sessRemove .udp) ∧ decode 0x00000154#32 = .ok (.sessRemove .tcp) ∧
  ∀ (s : State) (tb : Table) (h : Nat), h = s.arg0.toNat →
    (s.inUse tb h = false → exec (.sessRemove tb) s = .next { s with res0 := 0#32, rc := .miss, busy := false }) ∧
    (s.inUse tb h = true →
      ∃ t, exec (.sessRemove tb) s = .next t ∧
        t = { s with
          udp := t.udp, tcp := t.tcp, appUdp := t.appUdp, appTcp := t.appTcp
          res0 := t.res0, rc := .ok, busy := false } ∧
        s.sessionsUpdated t tb h { s.sessAt tb h with socket := BitVec.ofNat 8 (s.nSess tb) } ∧
        (tb = .tcp → t.tcpAt h = { s.tcpAt h with socket := BitVec.ofNat 8 (s.nSess tb) }) ∧
        (∀ j, (s.sessAt tb h).closePort = true → LeastIndex (s.nApp tb) (s.appHolds tb (s.sessAt tb h).localPort) j →
          t.res0 = 1#32 ∧ s.appsUpdated t tb j ⟨0#16, 0#32, 0#32⟩) ∧
        ((s.sessAt tb h).closePort = false ∨ NoIndex (s.nApp tb) (s.appHolds tb (s.sessAt tb h).localPort) →
          t.res0 = 0#32 ∧ t.appUdp = s.appUdp ∧ t.appTcp = s.appTcp))

/-- R238 SESS_GET. -/
def Obligations.SessGetReadsOnlyInUseSlots : Prop :=
  decode 0x00000055#32 = .ok (.sessGet .udp) ∧ decode 0x00000155#32 = .ok (.sessGet .tcp) ∧
  ∀ (s : State) (tb : Table) (e : Session), e = s.sessAt tb s.arg0.toNat →
    (s.inUse tb s.arg0.toNat = false →
      exec (.sessGet tb) s = .next { s with
        res0 := 0#32, res1 := 0#32, res2 := 0#32, res3 := 0#32, rc := .miss, busy := false }) ∧
    (s.inUse tb s.arg0.toNat = true →
      exec (.sessGet tb) s = .next { s with
        res0 := e.remoteIp, res1 := e.localPort ++ e.remotePort, res2 := e.timeoutMs
        res3 := if e.closePort then 1#32 else 0#32, rc := .ok, busy := false })

/-- R239 SESS_LOOKUP, with R231. -/
def Obligations.SessLookupFindsTheTuple : Prop :=
  decode 0x00000056#32 = .ok (.sessLookup .udp) ∧ decode 0x00000156#32 = .ok (.sessLookup .tcp) ∧
  ∀ (s : State) (tb : Table) (lp rp : Half), s.arg1 = lp ++ rp →
    (NoIndex (s.nSess tb) (s.sessHolds tb s.arg0 lp rp) →
      exec (.sessLookup tb) s = .next { s with res0 := BitVec.ofNat 32 (s.nSess tb), rc := .miss, busy := false }) ∧
    ∀ h, LeastIndex (s.nSess tb) (s.sessHolds tb s.arg0 lp rp) h →
      exec (.sessLookup tb) s = .next { s with res0 := BitVec.ofNat 32 h, rc := .ok, busy := false }

/-- R240 TCP_SET, with the state codes of R96: the state code is checked before the handle; bits 3 and 31:6 of ARG3 are
ignored. -/
def Obligations.TcpSetWritesTheBookkeeping : Prop :=
  decode 0x00000157#32 = .ok .tcpSet ∧
  (ConnState.handshakeOutgoing.code = 0#3 ∧ ConnState.handshakeIncoming.code = 1#3 ∧ ConnState.connected.code = 2#3 ∧
    ConnState.terminationOutgoing.code = 3#3 ∧ ConnState.terminationIncoming.code = 4#3) ∧
  ∀ (s : State) (h : Nat), h = s.arg0.toNat →
    (4 < s.arg3.toNat % 8 → exec .tcpSet s = .next { s with rc := .badOperand, busy := false }) ∧
    (s.arg3.toNat % 8 ≤ 4 → s.inUse .tcp h = false → exec .tcpSet s = .next { s with rc := .miss, busy := false }) ∧
    (∀ st : ConnState, st.code.toNat = s.arg3.toNat % 8 → s.inUse .tcp h = true →
      ∃ t, exec .tcpSet s = .next t ∧ t = { s with tcp := t.tcp, rc := .ok, busy := false } ∧
        s.sessionsUpdated t .tcp h (s.sessAt .tcp h) ∧
        t.tcpAt h = { s.tcpAt h with
          lastSeq := s.arg1, lastAck := s.arg2, connState := st
          pendingAck := s.arg3.getLsbD 4, pendingPush := s.arg3.getLsbD 5 })

/-- R241 TCP_GET. -/
def Obligations.TcpGetReadsTheBookkeeping : Prop :=
  decode 0x00000158#32 = .ok .tcpGet ∧
  ∀ (s : State) (e : TcpSession), e = s.tcpAt s.arg0.toNat →
    (s.inUse .tcp s.arg0.toNat = false →
      exec .tcpGet s = .next { s with res0 := 0#32, res1 := 0#32, res2 := 0#32, rc := .miss, busy := false }) ∧
    (s.inUse .tcp s.arg0.toNat = true →
      exec .tcpGet s = .next { s with
        res0 := e.lastSeq, res1 := e.lastAck, rc := .ok, busy := false
        res2 := BitVec.ofNat 32 (e.connState.code.toNat + e.pendingAck.toNat * 2 ^ 4 + e.pendingPush.toNat * 2 ^ 5) })

/-- R242 item 1: after SESS_REMOVE of a handle, SESS_GET of it is MISS, and when every lower slot is in use the next SESS_ADD
of a new tuple on that table returns the same handle. -/
def Obligations.RemovedHandleIsStaleThenReused : Prop :=
  ∀ (s : State) (tb : Table) (h : Nat), s.Inv → h = s.arg0.toNat → s.inUse tb h = true →
    ∃ t, exec (.sessRemove tb) s = .next t ∧
      (∃ u, exec (.sessGet tb) t = .next u ∧ u.rc = .miss) ∧
      ∀ (rip : IPv4) (lp rp : Half), (∀ i, i < h → s.inUse tb i = true) →
        NoIndex (t.nSess tb) (t.sessHolds tb rip lp rp) →
        ∃ v, exec (.sessAdd tb) { t with arg0 := rip, arg1 := lp ++ rp } = .next v ∧ v.rc = .ok ∧
          v.res0 = BitVec.ofNat 32 h ∧ v.inUse tb h = true
end

