-- ==== Sys2Proof/Laws/Search.lean ====
section
/-! SUPPORT. What a search for the least index answers (spec/00_scope.md rule R11), and a table with one slot
replaced. -/

namespace Sys2Proof.Machine

/-- `least` answers `i` exactly when `i` is the least index with the property. -/
theorem least_eq_some_iff (n : Nat) (p : Nat → Bool) (i : Nat) :
    least n p = some i ↔ LeastIndex n (fun j => p j = true) i := by
  simp only [least, List.find?_range_eq_some, List.mem_range, LeastIndex, Bool.not_eq_true', Bool.not_eq_true]
  constructor
  · rintro ⟨h, hi, hj⟩; exact ⟨hi, h, hj⟩
  · rintro ⟨hi, h, hj⟩; exact ⟨h, hi, hj⟩

/-- `least` answers none exactly when no index has the property. -/
theorem least_eq_none_iff (n : Nat) (p : Nat → Bool) :
    least n p = none ↔ NoIndex n (fun j => p j = true) := by
  simp [least, NoIndex]

/-- A least index is below the bound. -/
theorem least_lt {n : Nat} {p : Nat → Bool} {i : Nat} (h : least n p = some i) : i < n :=
  ((least_eq_some_iff n p i).1 h).1

/-- The least index has the property. -/
theorem least_holds {n : Nat} {p : Nat → Bool} {i : Nat} (h : least n p = some i) : p i = true :=
  ((least_eq_some_iff n p i).1 h).2.1

/-- Two searches for properties that agree below the bound answer the same. -/
theorem least_congr {n : Nat} {p q : Nat → Bool} (h : ∀ i, i < n → p i = q i) : least n p = least n q := by
  cases hq : least n q with
  | none =>
    rw [least_eq_none_iff] at hq ⊢
    exact fun i hi => by simpa only [h i hi] using hq i hi
  | some i =>
    rw [least_eq_some_iff] at hq ⊢
    exact ⟨hq.1, by simpa only [h i hq.1] using hq.2.1,
      fun j hj => by simpa only [h j (Nat.lt_trans hj hq.1)] using hq.2.2 j hj⟩

/-- A least index is unique. -/
theorem LeastIndex_unique {n : Nat} {p : Nat → Prop} {i j : Nat} (hi : LeastIndex n p i) (hj : LeastIndex n p j) : i = j := by
  rcases Nat.lt_trichotomy i j with h | h | h
  · exact absurd hi.2.1 (hj.2.2 i h)
  · exact h
  · exact absurd hj.2.1 (hi.2.2 j h)

/-- A list with one element replaced, read with a default. -/
theorem getD_set {α : Type} (l : List α) (i j : Nat) (e d : α) :
    (l.set i e).getD j d = if i = j ∧ i < l.length then e else l.getD j d := by
  simp only [List.getD_eq_getElem?_getD, List.getElem?_set]
  split
  · subst j
    by_cases hi : i < l.length <;> simp [hi]
  · rename_i hne
    rw [if_neg (fun hc => hne hc.1)]

end Sys2Proof.Machine
end

