-- ==== Sys2Proof/Laws/State.lean ====
section
/-! SUPPORT. One lemma per field per named update of State, so that no proof unfolds a record update: what the update writes,
and that every other field is as before. An update whose written field depends on the table T has that field's lemmas in
Laws/Sockets.lean; learning has its lemmas in Laws/ArpCache.lean. -/

namespace Sys2Proof.Machine

/-! ### setArp -/

@[simp] theorem State.setArp_arg0 (s : State) (i : Nat) (e : ArpSlot) : (s.setArp i e).arg0 = s.arg0 := rfl
@[simp] theorem State.setArp_arg1 (s : State) (i : Nat) (e : ArpSlot) : (s.setArp i e).arg1 = s.arg1 := rfl
@[simp] theorem State.setArp_arg2 (s : State) (i : Nat) (e : ArpSlot) : (s.setArp i e).arg2 = s.arg2 := rfl
@[simp] theorem State.setArp_arg3 (s : State) (i : Nat) (e : ArpSlot) : (s.setArp i e).arg3 = s.arg3 := rfl
@[simp] theorem State.setArp_cmd (s : State) (i : Nat) (e : ArpSlot) : (s.setArp i e).cmd = s.cmd := rfl
@[simp] theorem State.setArp_busy (s : State) (i : Nat) (e : ArpSlot) : (s.setArp i e).busy = s.busy := rfl
@[simp] theorem State.setArp_rc (s : State) (i : Nat) (e : ArpSlot) : (s.setArp i e).rc = s.rc := rfl
@[simp] theorem State.setArp_own (s : State) (i : Nat) (e : ArpSlot) : (s.setArp i e).own = s.own := rfl
@[simp] theorem State.setArp_ovr (s : State) (i : Nat) (e : ArpSlot) : (s.setArp i e).ovr = s.ovr := rfl
@[simp] theorem State.setArp_res0 (s : State) (i : Nat) (e : ArpSlot) : (s.setArp i e).res0 = s.res0 := rfl
@[simp] theorem State.setArp_res1 (s : State) (i : Nat) (e : ArpSlot) : (s.setArp i e).res1 = s.res1 := rfl
@[simp] theorem State.setArp_res2 (s : State) (i : Nat) (e : ArpSlot) : (s.setArp i e).res2 = s.res2 := rfl
@[simp] theorem State.setArp_res3 (s : State) (i : Nat) (e : ArpSlot) : (s.setArp i e).res3 = s.res3 := rfl
@[simp] theorem State.setArp_localMac (s : State) (i : Nat) (e : ArpSlot) : (s.setArp i e).localMac = s.localMac := rfl
@[simp] theorem State.setArp_localIp (s : State) (i : Nat) (e : ArpSlot) : (s.setArp i e).localIp = s.localIp := rfl
@[simp] theorem State.setArp_netmask (s : State) (i : Nat) (e : ArpSlot) : (s.setArp i e).netmask = s.netmask := rfl
@[simp] theorem State.setArp_gateway (s : State) (i : Nat) (e : ArpSlot) : (s.setArp i e).gateway = s.gateway := rfl
@[simp] theorem State.setArp_ipId (s : State) (i : Nat) (e : ArpSlot) : (s.setArp i e).ipId = s.ipId := rfl
@[simp] theorem State.setArp_csumAcc (s : State) (i : Nat) (e : ArpSlot) : (s.setArp i e).csumAcc = s.csumAcc := rfl
@[simp] theorem State.setArp_arp (s : State) (i : Nat) (e : ArpSlot) : (s.setArp i e).arp = s.arp.set i e := rfl
@[simp] theorem State.setArp_udp (s : State) (i : Nat) (e : ArpSlot) : (s.setArp i e).udp = s.udp := rfl
@[simp] theorem State.setArp_tcp (s : State) (i : Nat) (e : ArpSlot) : (s.setArp i e).tcp = s.tcp := rfl
@[simp] theorem State.setArp_appUdp (s : State) (i : Nat) (e : ArpSlot) : (s.setArp i e).appUdp = s.appUdp := rfl
@[simp] theorem State.setArp_appTcp (s : State) (i : Nat) (e : ArpSlot) : (s.setArp i e).appTcp = s.appTcp := rfl
@[simp] theorem State.setArp_buf (s : State) (i : Nat) (e : ArpSlot) : (s.setArp i e).buf = s.buf := rfl
@[simp] theorem State.setArp_fixed (s : State) (i : Nat) (e : ArpSlot) : (s.setArp i e).fixed = s.fixed := rfl
@[simp] theorem State.setArp_inputs (s : State) (i : Nat) (e : ArpSlot) : (s.setArp i e).inputs = s.inputs := rfl
@[simp] theorem State.setArp_readData (s : State) (i : Nat) (e : ArpSlot) : (s.setArp i e).readData = s.readData := rfl
@[simp] theorem State.setArp_freeReads (s : State) (i : Nat) (e : ArpSlot) : (s.setArp i e).freeReads = s.freeReads := rfl
@[simp] theorem State.setArp_powerOns (s : State) (i : Nat) (e : ArpSlot) : (s.setArp i e).powerOns = s.powerOns := rfl

/-! ### memWrite -/

@[simp] theorem State.memWrite_arg0 (s : State) (off n v : Nat) : (s.memWrite off n v).arg0 = s.arg0 := rfl
@[simp] theorem State.memWrite_arg1 (s : State) (off n v : Nat) : (s.memWrite off n v).arg1 = s.arg1 := rfl
@[simp] theorem State.memWrite_arg2 (s : State) (off n v : Nat) : (s.memWrite off n v).arg2 = s.arg2 := rfl
@[simp] theorem State.memWrite_arg3 (s : State) (off n v : Nat) : (s.memWrite off n v).arg3 = s.arg3 := rfl
@[simp] theorem State.memWrite_cmd (s : State) (off n v : Nat) : (s.memWrite off n v).cmd = s.cmd := rfl
@[simp] theorem State.memWrite_busy (s : State) (off n v : Nat) : (s.memWrite off n v).busy = s.busy := rfl
@[simp] theorem State.memWrite_rc (s : State) (off n v : Nat) : (s.memWrite off n v).rc = s.rc := rfl
@[simp] theorem State.memWrite_own (s : State) (off n v : Nat) : (s.memWrite off n v).own = s.own := rfl
@[simp] theorem State.memWrite_ovr (s : State) (off n v : Nat) : (s.memWrite off n v).ovr = s.ovr := rfl
@[simp] theorem State.memWrite_res0 (s : State) (off n v : Nat) : (s.memWrite off n v).res0 = s.res0 := rfl
@[simp] theorem State.memWrite_res1 (s : State) (off n v : Nat) : (s.memWrite off n v).res1 = s.res1 := rfl
@[simp] theorem State.memWrite_res2 (s : State) (off n v : Nat) : (s.memWrite off n v).res2 = s.res2 := rfl
@[simp] theorem State.memWrite_res3 (s : State) (off n v : Nat) : (s.memWrite off n v).res3 = s.res3 := rfl
@[simp] theorem State.memWrite_localMac (s : State) (off n v : Nat) : (s.memWrite off n v).localMac = s.localMac := rfl
@[simp] theorem State.memWrite_localIp (s : State) (off n v : Nat) : (s.memWrite off n v).localIp = s.localIp := rfl
@[simp] theorem State.memWrite_netmask (s : State) (off n v : Nat) : (s.memWrite off n v).netmask = s.netmask := rfl
@[simp] theorem State.memWrite_gateway (s : State) (off n v : Nat) : (s.memWrite off n v).gateway = s.gateway := rfl
@[simp] theorem State.memWrite_ipId (s : State) (off n v : Nat) : (s.memWrite off n v).ipId = s.ipId := rfl
@[simp] theorem State.memWrite_csumAcc (s : State) (off n v : Nat) : (s.memWrite off n v).csumAcc = s.csumAcc := rfl
@[simp] theorem State.memWrite_arp (s : State) (off n v : Nat) : (s.memWrite off n v).arp = s.arp := rfl
@[simp] theorem State.memWrite_udp (s : State) (off n v : Nat) : (s.memWrite off n v).udp = s.udp := rfl
@[simp] theorem State.memWrite_tcp (s : State) (off n v : Nat) : (s.memWrite off n v).tcp = s.tcp := rfl
@[simp] theorem State.memWrite_appUdp (s : State) (off n v : Nat) : (s.memWrite off n v).appUdp = s.appUdp := rfl
@[simp] theorem State.memWrite_appTcp (s : State) (off n v : Nat) : (s.memWrite off n v).appTcp = s.appTcp := rfl
@[simp] theorem State.memWrite_buf (s : State) (off n v : Nat) : (s.memWrite off n v).buf = Memory.setAll s.buf off (beBytes n v) := rfl
@[simp] theorem State.memWrite_fixed (s : State) (off n v : Nat) : (s.memWrite off n v).fixed = s.fixed := rfl
@[simp] theorem State.memWrite_inputs (s : State) (off n v : Nat) : (s.memWrite off n v).inputs = s.inputs := rfl
@[simp] theorem State.memWrite_readData (s : State) (off n v : Nat) : (s.memWrite off n v).readData = s.readData := rfl
@[simp] theorem State.memWrite_freeReads (s : State) (off n v : Nat) : (s.memWrite off n v).freeReads = s.freeReads := rfl
@[simp] theorem State.memWrite_powerOns (s : State) (off n v : Nat) : (s.memWrite off n v).powerOns = s.powerOns := rfl

/-! ### setSess -/

@[simp] theorem State.setSess_arg0 (s : State) (t : Table) (i : Nat) (e : Session) : (s.setSess t i e).arg0 = s.arg0 := by cases t <;> rfl
@[simp] theorem State.setSess_arg1 (s : State) (t : Table) (i : Nat) (e : Session) : (s.setSess t i e).arg1 = s.arg1 := by cases t <;> rfl
@[simp] theorem State.setSess_arg2 (s : State) (t : Table) (i : Nat) (e : Session) : (s.setSess t i e).arg2 = s.arg2 := by cases t <;> rfl
@[simp] theorem State.setSess_arg3 (s : State) (t : Table) (i : Nat) (e : Session) : (s.setSess t i e).arg3 = s.arg3 := by cases t <;> rfl
@[simp] theorem State.setSess_cmd (s : State) (t : Table) (i : Nat) (e : Session) : (s.setSess t i e).cmd = s.cmd := by cases t <;> rfl
@[simp] theorem State.setSess_busy (s : State) (t : Table) (i : Nat) (e : Session) : (s.setSess t i e).busy = s.busy := by cases t <;> rfl
@[simp] theorem State.setSess_rc (s : State) (t : Table) (i : Nat) (e : Session) : (s.setSess t i e).rc = s.rc := by cases t <;> rfl
@[simp] theorem State.setSess_own (s : State) (t : Table) (i : Nat) (e : Session) : (s.setSess t i e).own = s.own := by cases t <;> rfl
@[simp] theorem State.setSess_ovr (s : State) (t : Table) (i : Nat) (e : Session) : (s.setSess t i e).ovr = s.ovr := by cases t <;> rfl
@[simp] theorem State.setSess_res0 (s : State) (t : Table) (i : Nat) (e : Session) : (s.setSess t i e).res0 = s.res0 := by cases t <;> rfl
@[simp] theorem State.setSess_res1 (s : State) (t : Table) (i : Nat) (e : Session) : (s.setSess t i e).res1 = s.res1 := by cases t <;> rfl
@[simp] theorem State.setSess_res2 (s : State) (t : Table) (i : Nat) (e : Session) : (s.setSess t i e).res2 = s.res2 := by cases t <;> rfl
@[simp] theorem State.setSess_res3 (s : State) (t : Table) (i : Nat) (e : Session) : (s.setSess t i e).res3 = s.res3 := by cases t <;> rfl
@[simp] theorem State.setSess_localMac (s : State) (t : Table) (i : Nat) (e : Session) : (s.setSess t i e).localMac = s.localMac := by cases t <;> rfl
@[simp] theorem State.setSess_localIp (s : State) (t : Table) (i : Nat) (e : Session) : (s.setSess t i e).localIp = s.localIp := by cases t <;> rfl
@[simp] theorem State.setSess_netmask (s : State) (t : Table) (i : Nat) (e : Session) : (s.setSess t i e).netmask = s.netmask := by cases t <;> rfl
@[simp] theorem State.setSess_gateway (s : State) (t : Table) (i : Nat) (e : Session) : (s.setSess t i e).gateway = s.gateway := by cases t <;> rfl
@[simp] theorem State.setSess_ipId (s : State) (t : Table) (i : Nat) (e : Session) : (s.setSess t i e).ipId = s.ipId := by cases t <;> rfl
@[simp] theorem State.setSess_csumAcc (s : State) (t : Table) (i : Nat) (e : Session) : (s.setSess t i e).csumAcc = s.csumAcc := by cases t <;> rfl
@[simp] theorem State.setSess_arp (s : State) (t : Table) (i : Nat) (e : Session) : (s.setSess t i e).arp = s.arp := by cases t <;> rfl
@[simp] theorem State.setSess_appUdp (s : State) (t : Table) (i : Nat) (e : Session) : (s.setSess t i e).appUdp = s.appUdp := by cases t <;> rfl
@[simp] theorem State.setSess_appTcp (s : State) (t : Table) (i : Nat) (e : Session) : (s.setSess t i e).appTcp = s.appTcp := by cases t <;> rfl
@[simp] theorem State.setSess_buf (s : State) (t : Table) (i : Nat) (e : Session) : (s.setSess t i e).buf = s.buf := by cases t <;> rfl
@[simp] theorem State.setSess_fixed (s : State) (t : Table) (i : Nat) (e : Session) : (s.setSess t i e).fixed = s.fixed := by cases t <;> rfl
@[simp] theorem State.setSess_inputs (s : State) (t : Table) (i : Nat) (e : Session) : (s.setSess t i e).inputs = s.inputs := by cases t <;> rfl
@[simp] theorem State.setSess_readData (s : State) (t : Table) (i : Nat) (e : Session) : (s.setSess t i e).readData = s.readData := by cases t <;> rfl
@[simp] theorem State.setSess_freeReads (s : State) (t : Table) (i : Nat) (e : Session) : (s.setSess t i e).freeReads = s.freeReads := by cases t <;> rfl
@[simp] theorem State.setSess_powerOns (s : State) (t : Table) (i : Nat) (e : Session) : (s.setSess t i e).powerOns = s.powerOns := by cases t <;> rfl

/-! ### newSess -/

@[simp] theorem State.newSess_arg0 (s : State) (t : Table) (i : Nat) (e : Session) : (s.newSess t i e).arg0 = s.arg0 := by cases t <;> rfl
@[simp] theorem State.newSess_arg1 (s : State) (t : Table) (i : Nat) (e : Session) : (s.newSess t i e).arg1 = s.arg1 := by cases t <;> rfl
@[simp] theorem State.newSess_arg2 (s : State) (t : Table) (i : Nat) (e : Session) : (s.newSess t i e).arg2 = s.arg2 := by cases t <;> rfl
@[simp] theorem State.newSess_arg3 (s : State) (t : Table) (i : Nat) (e : Session) : (s.newSess t i e).arg3 = s.arg3 := by cases t <;> rfl
@[simp] theorem State.newSess_cmd (s : State) (t : Table) (i : Nat) (e : Session) : (s.newSess t i e).cmd = s.cmd := by cases t <;> rfl
@[simp] theorem State.newSess_busy (s : State) (t : Table) (i : Nat) (e : Session) : (s.newSess t i e).busy = s.busy := by cases t <;> rfl
@[simp] theorem State.newSess_rc (s : State) (t : Table) (i : Nat) (e : Session) : (s.newSess t i e).rc = s.rc := by cases t <;> rfl
@[simp] theorem State.newSess_own (s : State) (t : Table) (i : Nat) (e : Session) : (s.newSess t i e).own = s.own := by cases t <;> rfl
@[simp] theorem State.newSess_ovr (s : State) (t : Table) (i : Nat) (e : Session) : (s.newSess t i e).ovr = s.ovr := by cases t <;> rfl
@[simp] theorem State.newSess_res0 (s : State) (t : Table) (i : Nat) (e : Session) : (s.newSess t i e).res0 = s.res0 := by cases t <;> rfl
@[simp] theorem State.newSess_res1 (s : State) (t : Table) (i : Nat) (e : Session) : (s.newSess t i e).res1 = s.res1 := by cases t <;> rfl
@[simp] theorem State.newSess_res2 (s : State) (t : Table) (i : Nat) (e : Session) : (s.newSess t i e).res2 = s.res2 := by cases t <;> rfl
@[simp] theorem State.newSess_res3 (s : State) (t : Table) (i : Nat) (e : Session) : (s.newSess t i e).res3 = s.res3 := by cases t <;> rfl
@[simp] theorem State.newSess_localMac (s : State) (t : Table) (i : Nat) (e : Session) : (s.newSess t i e).localMac = s.localMac := by cases t <;> rfl
@[simp] theorem State.newSess_localIp (s : State) (t : Table) (i : Nat) (e : Session) : (s.newSess t i e).localIp = s.localIp := by cases t <;> rfl
@[simp] theorem State.newSess_netmask (s : State) (t : Table) (i : Nat) (e : Session) : (s.newSess t i e).netmask = s.netmask := by cases t <;> rfl
@[simp] theorem State.newSess_gateway (s : State) (t : Table) (i : Nat) (e : Session) : (s.newSess t i e).gateway = s.gateway := by cases t <;> rfl
@[simp] theorem State.newSess_ipId (s : State) (t : Table) (i : Nat) (e : Session) : (s.newSess t i e).ipId = s.ipId := by cases t <;> rfl
@[simp] theorem State.newSess_csumAcc (s : State) (t : Table) (i : Nat) (e : Session) : (s.newSess t i e).csumAcc = s.csumAcc := by cases t <;> rfl
@[simp] theorem State.newSess_arp (s : State) (t : Table) (i : Nat) (e : Session) : (s.newSess t i e).arp = s.arp := by cases t <;> rfl
@[simp] theorem State.newSess_appUdp (s : State) (t : Table) (i : Nat) (e : Session) : (s.newSess t i e).appUdp = s.appUdp := by cases t <;> rfl
@[simp] theorem State.newSess_appTcp (s : State) (t : Table) (i : Nat) (e : Session) : (s.newSess t i e).appTcp = s.appTcp := by cases t <;> rfl
@[simp] theorem State.newSess_buf (s : State) (t : Table) (i : Nat) (e : Session) : (s.newSess t i e).buf = s.buf := by cases t <;> rfl
@[simp] theorem State.newSess_fixed (s : State) (t : Table) (i : Nat) (e : Session) : (s.newSess t i e).fixed = s.fixed := by cases t <;> rfl
@[simp] theorem State.newSess_inputs (s : State) (t : Table) (i : Nat) (e : Session) : (s.newSess t i e).inputs = s.inputs := by cases t <;> rfl
@[simp] theorem State.newSess_readData (s : State) (t : Table) (i : Nat) (e : Session) : (s.newSess t i e).readData = s.readData := by cases t <;> rfl
@[simp] theorem State.newSess_freeReads (s : State) (t : Table) (i : Nat) (e : Session) : (s.newSess t i e).freeReads = s.freeReads := by cases t <;> rfl
@[simp] theorem State.newSess_powerOns (s : State) (t : Table) (i : Nat) (e : Session) : (s.newSess t i e).powerOns = s.powerOns := by cases t <;> rfl

/-! ### setApp -/

@[simp] theorem State.setApp_arg0 (s : State) (t : Table) (j : Nat) (a : App) : (s.setApp t j a).arg0 = s.arg0 := by cases t <;> rfl
@[simp] theorem State.setApp_arg1 (s : State) (t : Table) (j : Nat) (a : App) : (s.setApp t j a).arg1 = s.arg1 := by cases t <;> rfl
@[simp] theorem State.setApp_arg2 (s : State) (t : Table) (j : Nat) (a : App) : (s.setApp t j a).arg2 = s.arg2 := by cases t <;> rfl
@[simp] theorem State.setApp_arg3 (s : State) (t : Table) (j : Nat) (a : App) : (s.setApp t j a).arg3 = s.arg3 := by cases t <;> rfl
@[simp] theorem State.setApp_cmd (s : State) (t : Table) (j : Nat) (a : App) : (s.setApp t j a).cmd = s.cmd := by cases t <;> rfl
@[simp] theorem State.setApp_busy (s : State) (t : Table) (j : Nat) (a : App) : (s.setApp t j a).busy = s.busy := by cases t <;> rfl
@[simp] theorem State.setApp_rc (s : State) (t : Table) (j : Nat) (a : App) : (s.setApp t j a).rc = s.rc := by cases t <;> rfl
@[simp] theorem State.setApp_own (s : State) (t : Table) (j : Nat) (a : App) : (s.setApp t j a).own = s.own := by cases t <;> rfl
@[simp] theorem State.setApp_ovr (s : State) (t : Table) (j : Nat) (a : App) : (s.setApp t j a).ovr = s.ovr := by cases t <;> rfl
@[simp] theorem State.setApp_res0 (s : State) (t : Table) (j : Nat) (a : App) : (s.setApp t j a).res0 = s.res0 := by cases t <;> rfl
@[simp] theorem State.setApp_res1 (s : State) (t : Table) (j : Nat) (a : App) : (s.setApp t j a).res1 = s.res1 := by cases t <;> rfl
@[simp] theorem State.setApp_res2 (s : State) (t : Table) (j : Nat) (a : App) : (s.setApp t j a).res2 = s.res2 := by cases t <;> rfl
@[simp] theorem State.setApp_res3 (s : State) (t : Table) (j : Nat) (a : App) : (s.setApp t j a).res3 = s.res3 := by cases t <;> rfl
@[simp] theorem State.setApp_localMac (s : State) (t : Table) (j : Nat) (a : App) : (s.setApp t j a).localMac = s.localMac := by cases t <;> rfl
@[simp] theorem State.setApp_localIp (s : State) (t : Table) (j : Nat) (a : App) : (s.setApp t j a).localIp = s.localIp := by cases t <;> rfl
@[simp] theorem State.setApp_netmask (s : State) (t : Table) (j : Nat) (a : App) : (s.setApp t j a).netmask = s.netmask := by cases t <;> rfl
@[simp] theorem State.setApp_gateway (s : State) (t : Table) (j : Nat) (a : App) : (s.setApp t j a).gateway = s.gateway := by cases t <;> rfl
@[simp] theorem State.setApp_ipId (s : State) (t : Table) (j : Nat) (a : App) : (s.setApp t j a).ipId = s.ipId := by cases t <;> rfl
@[simp] theorem State.setApp_csumAcc (s : State) (t : Table) (j : Nat) (a : App) : (s.setApp t j a).csumAcc = s.csumAcc := by cases t <;> rfl
@[simp] theorem State.setApp_arp (s : State) (t : Table) (j : Nat) (a : App) : (s.setApp t j a).arp = s.arp := by cases t <;> rfl
@[simp] theorem State.setApp_udp (s : State) (t : Table) (j : Nat) (a : App) : (s.setApp t j a).udp = s.udp := by cases t <;> rfl
@[simp] theorem State.setApp_tcp (s : State) (t : Table) (j : Nat) (a : App) : (s.setApp t j a).tcp = s.tcp := by cases t <;> rfl
@[simp] theorem State.setApp_buf (s : State) (t : Table) (j : Nat) (a : App) : (s.setApp t j a).buf = s.buf := by cases t <;> rfl
@[simp] theorem State.setApp_fixed (s : State) (t : Table) (j : Nat) (a : App) : (s.setApp t j a).fixed = s.fixed := by cases t <;> rfl
@[simp] theorem State.setApp_inputs (s : State) (t : Table) (j : Nat) (a : App) : (s.setApp t j a).inputs = s.inputs := by cases t <;> rfl
@[simp] theorem State.setApp_readData (s : State) (t : Table) (j : Nat) (a : App) : (s.setApp t j a).readData = s.readData := by cases t <;> rfl
@[simp] theorem State.setApp_freeReads (s : State) (t : Table) (j : Nat) (a : App) : (s.setApp t j a).freeReads = s.freeReads := by cases t <;> rfl
@[simp] theorem State.setApp_powerOns (s : State) (t : Table) (j : Nat) (a : App) : (s.setApp t j a).powerOns = s.powerOns := by cases t <;> rfl

/-! ### freeSlot -/

@[simp] theorem State.freeSlot_arg0 (s : State) (t : Table) (h : Nat) : (s.freeSlot t h).arg0 = s.arg0 := by cases t <;> rfl
@[simp] theorem State.freeSlot_arg1 (s : State) (t : Table) (h : Nat) : (s.freeSlot t h).arg1 = s.arg1 := by cases t <;> rfl
@[simp] theorem State.freeSlot_arg2 (s : State) (t : Table) (h : Nat) : (s.freeSlot t h).arg2 = s.arg2 := by cases t <;> rfl
@[simp] theorem State.freeSlot_arg3 (s : State) (t : Table) (h : Nat) : (s.freeSlot t h).arg3 = s.arg3 := by cases t <;> rfl
@[simp] theorem State.freeSlot_cmd (s : State) (t : Table) (h : Nat) : (s.freeSlot t h).cmd = s.cmd := by cases t <;> rfl
@[simp] theorem State.freeSlot_busy (s : State) (t : Table) (h : Nat) : (s.freeSlot t h).busy = s.busy := by cases t <;> rfl
@[simp] theorem State.freeSlot_rc (s : State) (t : Table) (h : Nat) : (s.freeSlot t h).rc = s.rc := by cases t <;> rfl
@[simp] theorem State.freeSlot_own (s : State) (t : Table) (h : Nat) : (s.freeSlot t h).own = s.own := by cases t <;> rfl
@[simp] theorem State.freeSlot_ovr (s : State) (t : Table) (h : Nat) : (s.freeSlot t h).ovr = s.ovr := by cases t <;> rfl
@[simp] theorem State.freeSlot_res0 (s : State) (t : Table) (h : Nat) : (s.freeSlot t h).res0 = s.res0 := by cases t <;> rfl
@[simp] theorem State.freeSlot_res1 (s : State) (t : Table) (h : Nat) : (s.freeSlot t h).res1 = s.res1 := by cases t <;> rfl
@[simp] theorem State.freeSlot_res2 (s : State) (t : Table) (h : Nat) : (s.freeSlot t h).res2 = s.res2 := by cases t <;> rfl
@[simp] theorem State.freeSlot_res3 (s : State) (t : Table) (h : Nat) : (s.freeSlot t h).res3 = s.res3 := by cases t <;> rfl
@[simp] theorem State.freeSlot_localMac (s : State) (t : Table) (h : Nat) : (s.freeSlot t h).localMac = s.localMac := by cases t <;> rfl
@[simp] theorem State.freeSlot_localIp (s : State) (t : Table) (h : Nat) : (s.freeSlot t h).localIp = s.localIp := by cases t <;> rfl
@[simp] theorem State.freeSlot_netmask (s : State) (t : Table) (h : Nat) : (s.freeSlot t h).netmask = s.netmask := by cases t <;> rfl
@[simp] theorem State.freeSlot_gateway (s : State) (t : Table) (h : Nat) : (s.freeSlot t h).gateway = s.gateway := by cases t <;> rfl
@[simp] theorem State.freeSlot_ipId (s : State) (t : Table) (h : Nat) : (s.freeSlot t h).ipId = s.ipId := by cases t <;> rfl
@[simp] theorem State.freeSlot_csumAcc (s : State) (t : Table) (h : Nat) : (s.freeSlot t h).csumAcc = s.csumAcc := by cases t <;> rfl
@[simp] theorem State.freeSlot_arp (s : State) (t : Table) (h : Nat) : (s.freeSlot t h).arp = s.arp := by cases t <;> rfl
@[simp] theorem State.freeSlot_appUdp (s : State) (t : Table) (h : Nat) : (s.freeSlot t h).appUdp = s.appUdp := by cases t <;> rfl
@[simp] theorem State.freeSlot_appTcp (s : State) (t : Table) (h : Nat) : (s.freeSlot t h).appTcp = s.appTcp := by cases t <;> rfl
@[simp] theorem State.freeSlot_buf (s : State) (t : Table) (h : Nat) : (s.freeSlot t h).buf = s.buf := by cases t <;> rfl
@[simp] theorem State.freeSlot_fixed (s : State) (t : Table) (h : Nat) : (s.freeSlot t h).fixed = s.fixed := by cases t <;> rfl
@[simp] theorem State.freeSlot_inputs (s : State) (t : Table) (h : Nat) : (s.freeSlot t h).inputs = s.inputs := by cases t <;> rfl
@[simp] theorem State.freeSlot_readData (s : State) (t : Table) (h : Nat) : (s.freeSlot t h).readData = s.readData := by cases t <;> rfl
@[simp] theorem State.freeSlot_freeReads (s : State) (t : Table) (h : Nat) : (s.freeSlot t h).freeReads = s.freeReads := by cases t <;> rfl
@[simp] theorem State.freeSlot_powerOns (s : State) (t : Table) (h : Nat) : (s.freeSlot t h).powerOns = s.powerOns := by cases t <;> rfl

/-! ### latch -/

@[simp] theorem State.latch_arg0 (s : State) (w : Word) : (s.latch w).arg0 = s.arg0 := rfl
@[simp] theorem State.latch_arg1 (s : State) (w : Word) : (s.latch w).arg1 = s.arg1 := rfl
@[simp] theorem State.latch_arg2 (s : State) (w : Word) : (s.latch w).arg2 = s.arg2 := rfl
@[simp] theorem State.latch_arg3 (s : State) (w : Word) : (s.latch w).arg3 = s.arg3 := rfl
@[simp] theorem State.latch_cmd (s : State) (w : Word) : (s.latch w).cmd = w := rfl
@[simp] theorem State.latch_busy (s : State) (w : Word) : (s.latch w).busy = true := rfl
@[simp] theorem State.latch_rc (s : State) (w : Word) : (s.latch w).rc = s.rc := rfl
@[simp] theorem State.latch_own (s : State) (w : Word) : (s.latch w).own = s.own := rfl
@[simp] theorem State.latch_ovr (s : State) (w : Word) : (s.latch w).ovr = s.ovr := rfl
@[simp] theorem State.latch_res0 (s : State) (w : Word) : (s.latch w).res0 = s.res0 := rfl
@[simp] theorem State.latch_res1 (s : State) (w : Word) : (s.latch w).res1 = s.res1 := rfl
@[simp] theorem State.latch_res2 (s : State) (w : Word) : (s.latch w).res2 = s.res2 := rfl
@[simp] theorem State.latch_res3 (s : State) (w : Word) : (s.latch w).res3 = s.res3 := rfl
@[simp] theorem State.latch_localMac (s : State) (w : Word) : (s.latch w).localMac = s.localMac := rfl
@[simp] theorem State.latch_localIp (s : State) (w : Word) : (s.latch w).localIp = s.localIp := rfl
@[simp] theorem State.latch_netmask (s : State) (w : Word) : (s.latch w).netmask = s.netmask := rfl
@[simp] theorem State.latch_gateway (s : State) (w : Word) : (s.latch w).gateway = s.gateway := rfl
@[simp] theorem State.latch_ipId (s : State) (w : Word) : (s.latch w).ipId = s.ipId := rfl
@[simp] theorem State.latch_csumAcc (s : State) (w : Word) : (s.latch w).csumAcc = s.csumAcc := rfl
@[simp] theorem State.latch_arp (s : State) (w : Word) : (s.latch w).arp = s.arp := rfl
@[simp] theorem State.latch_udp (s : State) (w : Word) : (s.latch w).udp = s.udp := rfl
@[simp] theorem State.latch_tcp (s : State) (w : Word) : (s.latch w).tcp = s.tcp := rfl
@[simp] theorem State.latch_appUdp (s : State) (w : Word) : (s.latch w).appUdp = s.appUdp := rfl
@[simp] theorem State.latch_appTcp (s : State) (w : Word) : (s.latch w).appTcp = s.appTcp := rfl
@[simp] theorem State.latch_buf (s : State) (w : Word) : (s.latch w).buf = s.buf := rfl
@[simp] theorem State.latch_fixed (s : State) (w : Word) : (s.latch w).fixed = s.fixed := rfl
@[simp] theorem State.latch_inputs (s : State) (w : Word) : (s.latch w).inputs = s.inputs := rfl
@[simp] theorem State.latch_readData (s : State) (w : Word) : (s.latch w).readData = s.readData := rfl
@[simp] theorem State.latch_freeReads (s : State) (w : Word) : (s.latch w).freeReads = s.freeReads := rfl
@[simp] theorem State.latch_powerOns (s : State) (w : Word) : (s.latch w).powerOns = s.powerOns := rfl

/-! ### writeArpFrame -/

@[simp] theorem State.writeArpFrame_arg0 (s : State) (dst : Mac) (oper : Half) (tha : Mac) (tpa : IPv4) : (s.writeArpFrame dst oper tha tpa).arg0 = s.arg0 := by
  simp only [State.writeArpFrame]
@[simp] theorem State.writeArpFrame_arg1 (s : State) (dst : Mac) (oper : Half) (tha : Mac) (tpa : IPv4) : (s.writeArpFrame dst oper tha tpa).arg1 = s.arg1 := by
  simp only [State.writeArpFrame]
@[simp] theorem State.writeArpFrame_arg2 (s : State) (dst : Mac) (oper : Half) (tha : Mac) (tpa : IPv4) : (s.writeArpFrame dst oper tha tpa).arg2 = s.arg2 := by
  simp only [State.writeArpFrame]
@[simp] theorem State.writeArpFrame_arg3 (s : State) (dst : Mac) (oper : Half) (tha : Mac) (tpa : IPv4) : (s.writeArpFrame dst oper tha tpa).arg3 = s.arg3 := by
  simp only [State.writeArpFrame]
@[simp] theorem State.writeArpFrame_cmd (s : State) (dst : Mac) (oper : Half) (tha : Mac) (tpa : IPv4) : (s.writeArpFrame dst oper tha tpa).cmd = s.cmd := by
  simp only [State.writeArpFrame]
@[simp] theorem State.writeArpFrame_busy (s : State) (dst : Mac) (oper : Half) (tha : Mac) (tpa : IPv4) : (s.writeArpFrame dst oper tha tpa).busy = s.busy := by
  simp only [State.writeArpFrame]
@[simp] theorem State.writeArpFrame_rc (s : State) (dst : Mac) (oper : Half) (tha : Mac) (tpa : IPv4) : (s.writeArpFrame dst oper tha tpa).rc = s.rc := by
  simp only [State.writeArpFrame]
@[simp] theorem State.writeArpFrame_own (s : State) (dst : Mac) (oper : Half) (tha : Mac) (tpa : IPv4) : (s.writeArpFrame dst oper tha tpa).own = s.own := by
  simp only [State.writeArpFrame]
@[simp] theorem State.writeArpFrame_ovr (s : State) (dst : Mac) (oper : Half) (tha : Mac) (tpa : IPv4) : (s.writeArpFrame dst oper tha tpa).ovr = s.ovr := by
  simp only [State.writeArpFrame]
@[simp] theorem State.writeArpFrame_res0 (s : State) (dst : Mac) (oper : Half) (tha : Mac) (tpa : IPv4) : (s.writeArpFrame dst oper tha tpa).res0 = s.res0 := by
  simp only [State.writeArpFrame]
@[simp] theorem State.writeArpFrame_res1 (s : State) (dst : Mac) (oper : Half) (tha : Mac) (tpa : IPv4) : (s.writeArpFrame dst oper tha tpa).res1 = s.res1 := by
  simp only [State.writeArpFrame]
@[simp] theorem State.writeArpFrame_res2 (s : State) (dst : Mac) (oper : Half) (tha : Mac) (tpa : IPv4) : (s.writeArpFrame dst oper tha tpa).res2 = s.res2 := by
  simp only [State.writeArpFrame]
@[simp] theorem State.writeArpFrame_res3 (s : State) (dst : Mac) (oper : Half) (tha : Mac) (tpa : IPv4) : (s.writeArpFrame dst oper tha tpa).res3 = s.res3 := by
  simp only [State.writeArpFrame]
@[simp] theorem State.writeArpFrame_localMac (s : State) (dst : Mac) (oper : Half) (tha : Mac) (tpa : IPv4) : (s.writeArpFrame dst oper tha tpa).localMac = s.localMac := by
  simp only [State.writeArpFrame]
@[simp] theorem State.writeArpFrame_localIp (s : State) (dst : Mac) (oper : Half) (tha : Mac) (tpa : IPv4) : (s.writeArpFrame dst oper tha tpa).localIp = s.localIp := by
  simp only [State.writeArpFrame]
@[simp] theorem State.writeArpFrame_netmask (s : State) (dst : Mac) (oper : Half) (tha : Mac) (tpa : IPv4) : (s.writeArpFrame dst oper tha tpa).netmask = s.netmask := by
  simp only [State.writeArpFrame]
@[simp] theorem State.writeArpFrame_gateway (s : State) (dst : Mac) (oper : Half) (tha : Mac) (tpa : IPv4) : (s.writeArpFrame dst oper tha tpa).gateway = s.gateway := by
  simp only [State.writeArpFrame]
@[simp] theorem State.writeArpFrame_ipId (s : State) (dst : Mac) (oper : Half) (tha : Mac) (tpa : IPv4) : (s.writeArpFrame dst oper tha tpa).ipId = s.ipId := by
  simp only [State.writeArpFrame]
@[simp] theorem State.writeArpFrame_csumAcc (s : State) (dst : Mac) (oper : Half) (tha : Mac) (tpa : IPv4) : (s.writeArpFrame dst oper tha tpa).csumAcc = s.csumAcc := by
  simp only [State.writeArpFrame]
@[simp] theorem State.writeArpFrame_arp (s : State) (dst : Mac) (oper : Half) (tha : Mac) (tpa : IPv4) : (s.writeArpFrame dst oper tha tpa).arp = s.arp := by
  simp only [State.writeArpFrame]
@[simp] theorem State.writeArpFrame_udp (s : State) (dst : Mac) (oper : Half) (tha : Mac) (tpa : IPv4) : (s.writeArpFrame dst oper tha tpa).udp = s.udp := by
  simp only [State.writeArpFrame]
@[simp] theorem State.writeArpFrame_tcp (s : State) (dst : Mac) (oper : Half) (tha : Mac) (tpa : IPv4) : (s.writeArpFrame dst oper tha tpa).tcp = s.tcp := by
  simp only [State.writeArpFrame]
@[simp] theorem State.writeArpFrame_appUdp (s : State) (dst : Mac) (oper : Half) (tha : Mac) (tpa : IPv4) : (s.writeArpFrame dst oper tha tpa).appUdp = s.appUdp := by
  simp only [State.writeArpFrame]
@[simp] theorem State.writeArpFrame_appTcp (s : State) (dst : Mac) (oper : Half) (tha : Mac) (tpa : IPv4) : (s.writeArpFrame dst oper tha tpa).appTcp = s.appTcp := by
  simp only [State.writeArpFrame]
@[simp] theorem State.writeArpFrame_fixed (s : State) (dst : Mac) (oper : Half) (tha : Mac) (tpa : IPv4) : (s.writeArpFrame dst oper tha tpa).fixed = s.fixed := by
  simp only [State.writeArpFrame]
@[simp] theorem State.writeArpFrame_inputs (s : State) (dst : Mac) (oper : Half) (tha : Mac) (tpa : IPv4) : (s.writeArpFrame dst oper tha tpa).inputs = s.inputs := by
  simp only [State.writeArpFrame]
@[simp] theorem State.writeArpFrame_readData (s : State) (dst : Mac) (oper : Half) (tha : Mac) (tpa : IPv4) : (s.writeArpFrame dst oper tha tpa).readData = s.readData := by
  simp only [State.writeArpFrame]
@[simp] theorem State.writeArpFrame_freeReads (s : State) (dst : Mac) (oper : Half) (tha : Mac) (tpa : IPv4) : (s.writeArpFrame dst oper tha tpa).freeReads = s.freeReads := by
  simp only [State.writeArpFrame]
@[simp] theorem State.writeArpFrame_powerOns (s : State) (dst : Mac) (oper : Half) (tha : Mac) (tpa : IPv4) : (s.writeArpFrame dst oper tha tpa).powerOns = s.powerOns := by
  simp only [State.writeArpFrame]

/-! ### writeIpHeader -/

@[simp] theorem State.writeIpHeader_arg0 (s : State) (mac : Mac) (dst : IPv4) (proto : Byte) (plen : Nat) : (s.writeIpHeader mac dst proto plen).arg0 = s.arg0 := by
  simp only [State.writeIpHeader]
@[simp] theorem State.writeIpHeader_arg1 (s : State) (mac : Mac) (dst : IPv4) (proto : Byte) (plen : Nat) : (s.writeIpHeader mac dst proto plen).arg1 = s.arg1 := by
  simp only [State.writeIpHeader]
@[simp] theorem State.writeIpHeader_arg2 (s : State) (mac : Mac) (dst : IPv4) (proto : Byte) (plen : Nat) : (s.writeIpHeader mac dst proto plen).arg2 = s.arg2 := by
  simp only [State.writeIpHeader]
@[simp] theorem State.writeIpHeader_arg3 (s : State) (mac : Mac) (dst : IPv4) (proto : Byte) (plen : Nat) : (s.writeIpHeader mac dst proto plen).arg3 = s.arg3 := by
  simp only [State.writeIpHeader]
@[simp] theorem State.writeIpHeader_cmd (s : State) (mac : Mac) (dst : IPv4) (proto : Byte) (plen : Nat) : (s.writeIpHeader mac dst proto plen).cmd = s.cmd := by
  simp only [State.writeIpHeader]
@[simp] theorem State.writeIpHeader_busy (s : State) (mac : Mac) (dst : IPv4) (proto : Byte) (plen : Nat) : (s.writeIpHeader mac dst proto plen).busy = s.busy := by
  simp only [State.writeIpHeader]
@[simp] theorem State.writeIpHeader_rc (s : State) (mac : Mac) (dst : IPv4) (proto : Byte) (plen : Nat) : (s.writeIpHeader mac dst proto plen).rc = s.rc := by
  simp only [State.writeIpHeader]
@[simp] theorem State.writeIpHeader_own (s : State) (mac : Mac) (dst : IPv4) (proto : Byte) (plen : Nat) : (s.writeIpHeader mac dst proto plen).own = s.own := by
  simp only [State.writeIpHeader]
@[simp] theorem State.writeIpHeader_ovr (s : State) (mac : Mac) (dst : IPv4) (proto : Byte) (plen : Nat) : (s.writeIpHeader mac dst proto plen).ovr = s.ovr := by
  simp only [State.writeIpHeader]
@[simp] theorem State.writeIpHeader_res0 (s : State) (mac : Mac) (dst : IPv4) (proto : Byte) (plen : Nat) : (s.writeIpHeader mac dst proto plen).res0 = s.res0 := by
  simp only [State.writeIpHeader]
@[simp] theorem State.writeIpHeader_res1 (s : State) (mac : Mac) (dst : IPv4) (proto : Byte) (plen : Nat) : (s.writeIpHeader mac dst proto plen).res1 = s.res1 := by
  simp only [State.writeIpHeader]
@[simp] theorem State.writeIpHeader_res2 (s : State) (mac : Mac) (dst : IPv4) (proto : Byte) (plen : Nat) : (s.writeIpHeader mac dst proto plen).res2 = s.res2 := by
  simp only [State.writeIpHeader]
@[simp] theorem State.writeIpHeader_res3 (s : State) (mac : Mac) (dst : IPv4) (proto : Byte) (plen : Nat) : (s.writeIpHeader mac dst proto plen).res3 = s.res3 := by
  simp only [State.writeIpHeader]
@[simp] theorem State.writeIpHeader_localMac (s : State) (mac : Mac) (dst : IPv4) (proto : Byte) (plen : Nat) : (s.writeIpHeader mac dst proto plen).localMac = s.localMac := by
  simp only [State.writeIpHeader]
@[simp] theorem State.writeIpHeader_localIp (s : State) (mac : Mac) (dst : IPv4) (proto : Byte) (plen : Nat) : (s.writeIpHeader mac dst proto plen).localIp = s.localIp := by
  simp only [State.writeIpHeader]
@[simp] theorem State.writeIpHeader_netmask (s : State) (mac : Mac) (dst : IPv4) (proto : Byte) (plen : Nat) : (s.writeIpHeader mac dst proto plen).netmask = s.netmask := by
  simp only [State.writeIpHeader]
@[simp] theorem State.writeIpHeader_gateway (s : State) (mac : Mac) (dst : IPv4) (proto : Byte) (plen : Nat) : (s.writeIpHeader mac dst proto plen).gateway = s.gateway := by
  simp only [State.writeIpHeader]
@[simp] theorem State.writeIpHeader_ipId (s : State) (mac : Mac) (dst : IPv4) (proto : Byte) (plen : Nat) : (s.writeIpHeader mac dst proto plen).ipId = s.ipId := by
  simp only [State.writeIpHeader]
@[simp] theorem State.writeIpHeader_csumAcc (s : State) (mac : Mac) (dst : IPv4) (proto : Byte) (plen : Nat) : (s.writeIpHeader mac dst proto plen).csumAcc = s.csumAcc := by
  simp only [State.writeIpHeader]
@[simp] theorem State.writeIpHeader_arp (s : State) (mac : Mac) (dst : IPv4) (proto : Byte) (plen : Nat) : (s.writeIpHeader mac dst proto plen).arp = s.arp := by
  simp only [State.writeIpHeader]
@[simp] theorem State.writeIpHeader_udp (s : State) (mac : Mac) (dst : IPv4) (proto : Byte) (plen : Nat) : (s.writeIpHeader mac dst proto plen).udp = s.udp := by
  simp only [State.writeIpHeader]
@[simp] theorem State.writeIpHeader_tcp (s : State) (mac : Mac) (dst : IPv4) (proto : Byte) (plen : Nat) : (s.writeIpHeader mac dst proto plen).tcp = s.tcp := by
  simp only [State.writeIpHeader]
@[simp] theorem State.writeIpHeader_appUdp (s : State) (mac : Mac) (dst : IPv4) (proto : Byte) (plen : Nat) : (s.writeIpHeader mac dst proto plen).appUdp = s.appUdp := by
  simp only [State.writeIpHeader]
@[simp] theorem State.writeIpHeader_appTcp (s : State) (mac : Mac) (dst : IPv4) (proto : Byte) (plen : Nat) : (s.writeIpHeader mac dst proto plen).appTcp = s.appTcp := by
  simp only [State.writeIpHeader]
@[simp] theorem State.writeIpHeader_fixed (s : State) (mac : Mac) (dst : IPv4) (proto : Byte) (plen : Nat) : (s.writeIpHeader mac dst proto plen).fixed = s.fixed := by
  simp only [State.writeIpHeader]
@[simp] theorem State.writeIpHeader_inputs (s : State) (mac : Mac) (dst : IPv4) (proto : Byte) (plen : Nat) : (s.writeIpHeader mac dst proto plen).inputs = s.inputs := by
  simp only [State.writeIpHeader]
@[simp] theorem State.writeIpHeader_readData (s : State) (mac : Mac) (dst : IPv4) (proto : Byte) (plen : Nat) : (s.writeIpHeader mac dst proto plen).readData = s.readData := by
  simp only [State.writeIpHeader]
@[simp] theorem State.writeIpHeader_freeReads (s : State) (mac : Mac) (dst : IPv4) (proto : Byte) (plen : Nat) : (s.writeIpHeader mac dst proto plen).freeReads = s.freeReads := by
  simp only [State.writeIpHeader]
@[simp] theorem State.writeIpHeader_powerOns (s : State) (mac : Mac) (dst : IPv4) (proto : Byte) (plen : Nat) : (s.writeIpHeader mac dst proto plen).powerOns = s.powerOns := by
  simp only [State.writeIpHeader]

end Sys2Proof.Machine
end

