-- ==== Sys2Proof/Laws/ArpCache.lean ====
section
/-! SUPPORT. What each primitive of the ARP cache answers (spec/43_arp_cache.md rules R160-R164), said once. -/

namespace Sys2Proof.Machine

/-! ### Slots -/

/-- After `ARP[i] <- e` slot `i` is `e`, and every other slot is as before. -/
theorem State.arpAt_setArp (s : State) (i j : Nat) (e : ArpSlot) :
    (s.setArp i e).arpAt j = if i = j ∧ i < s.nArp then e else s.arpAt j := by
  exact getD_set s.arp i j e ArpSlot.empty

@[simp] theorem State.nArp_setArp (s : State) (i : Nat) (e : ArpSlot) : (s.setArp i e).nArp = s.nArp := by
  simp [State.nArp]

/-- A slot of the cache is an element of its table. -/
theorem State.arpAt_eq_getElem (s : State) (i : Nat) (h : i < s.nArp) : s.arpAt i = s.arp[i] := by
  rw [State.arpAt, List.getD_eq_getElem?_getD, List.getElem?_eq_getElem h]
  rfl

/-- The cache depends on its table alone. -/
theorem State.arpAt_congr {s t : State} (h : t.arp = s.arp) (i : Nat) : t.arpAt i = s.arpAt i := by
  simp only [State.arpAt, h]

/-! ### Searching (R160, R162) -/

/-- R160: find answers the least slot that holds a non-zero IP. -/
theorem State.arpFind_eq_some_iff (s : State) (ip : IPv4) (i : Nat) :
    s.arpFind ip = some i ↔ ip ≠ 0#32 ∧ LeastIndex s.nArp (s.arpHolds ip) i := by
  simp only [State.arpFind]
  split
  · simp_all
  · simp [least_eq_some_iff, State.arpHolds, LeastIndex, *]

/-- R160: find answers none for 0 and for an IP no slot holds. -/
theorem State.arpFind_eq_none_iff (s : State) (ip : IPv4) :
    s.arpFind ip = none ↔ ip = 0#32 ∨ NoIndex s.nArp (s.arpHolds ip) := by
  simp only [State.arpFind]
  split
  · simp_all
  · simp [least_eq_none_iff, State.arpHolds, NoIndex, *]

/-- R162: the lowest empty slot. -/
theorem State.arpFree_eq_some_iff (s : State) (i : Nat) : s.arpFree = some i ↔ LeastIndex s.nArp (s.arpHolds 0#32) i := by
  simp [State.arpFree, least_eq_some_iff, State.arpHolds, LeastIndex]

/-- R162: no slot is empty. -/
theorem State.arpFree_eq_none_iff (s : State) : s.arpFree = none ↔ NoIndex s.nArp (s.arpHolds 0#32) := by
  simp [State.arpFree, least_eq_none_iff, State.arpHolds, NoIndex]

/-! ### Redirecting, inserting, learning, resolving (R161-R164) -/

/-- R161. -/
theorem State.redirect_eq (s : State) (ip : IPv4) : s.redirect ip = s.redirectKey ip := by
  simp only [State.redirect, State.redirectKey]
  split <;> simp_all

/-- R162, all that insert can do: refuse 0, refresh the slot that holds the IP, fill the lowest empty slot, or find the table
full. -/
theorem State.arpInsert_cases (s : State) (ip : IPv4) (mac : Mac) :
    (ip = 0#32 ∧ s.arpInsert ip mac = (s, none)) ∨
    (∃ i, ip ≠ 0#32 ∧ LeastIndex s.nArp (s.arpHolds ip) i ∧
      s.arpInsert ip mac = (s.setArp i { s.arpAt i with ttl := s.fixed.arpTtlMax }, some i)) ∨
    (∃ j, ip ≠ 0#32 ∧ NoIndex s.nArp (s.arpHolds ip) ∧ LeastIndex s.nArp (s.arpHolds 0#32) j ∧
      s.arpInsert ip mac = (s.setArp j ⟨ip, mac, s.fixed.arpTtlMax⟩, some j)) ∨
    (ip ≠ 0#32 ∧ NoIndex s.nArp (s.arpHolds ip) ∧ NoIndex s.nArp (s.arpHolds 0#32) ∧ s.arpInsert ip mac = (s, none)) := by
  simp only [State.arpInsert]
  by_cases h0 : ip = 0#32
  · exact .inl ⟨h0, by simp [h0]⟩
  · cases hf : s.arpFind ip with
    | some i => exact .inr (.inl ⟨i, h0, ((s.arpFind_eq_some_iff ip i).1 hf).2, by simp [h0]⟩)
    | none =>
      have hn := ((s.arpFind_eq_none_iff ip).1 hf).resolve_left h0
      cases he : s.arpFree with
      | some j => exact .inr (.inr (.inl ⟨j, h0, hn, (s.arpFree_eq_some_iff j).1 he, by simp [h0]⟩))
      | none => exact .inr (.inr (.inr ⟨h0, hn, s.arpFree_eq_none_iff.1 he, by simp [h0]⟩))

/-- Insert writes the cache alone. -/
theorem State.arpInsert_frame (s : State) (ip : IPv4) (mac : Mac) :
    (s.arpInsert ip mac).1 = { s with arp := (s.arpInsert ip mac).1.arp } ∧ (s.arpInsert ip mac).1.nArp = s.nArp := by
  rcases s.arpInsert_cases ip mac with ⟨_, h⟩ | ⟨i, _, _, h⟩ | ⟨j, _, _, _, h⟩ | ⟨_, _, _, h⟩ <;> rw [h]
  · exact ⟨rfl, rfl⟩
  · exact ⟨rfl, by simp⟩
  · exact ⟨rfl, by simp⟩
  · exact ⟨rfl, rfl⟩

/-- Learning writes the cache alone. -/
theorem State.learn_frame (s : State) (ip : IPv4) (mac : Mac) :
    s.learn ip mac = { s with arp := (s.learn ip mac).arp } ∧ (s.learn ip mac).nArp = s.nArp := by
  simp only [State.learn]
  split
  · exact ⟨rfl, rfl⟩
  · exact s.arpInsert_frame _ mac

/-- Learning depends on the cache, the subnet registers and ARP_TTL_MAX alone. -/
theorem State.learn_arp_congr {s t : State} (ha : t.arp = s.arp) (hf : t.fixed = s.fixed) (hi : t.localIp = s.localIp)
    (hn : t.netmask = s.netmask) (hg : t.gateway = s.gateway) (ip : IPv4) (mac : Mac) :
    (t.learn ip mac).arp = (s.learn ip mac).arp := by
  have hr : t.redirect ip = s.redirect ip := by simp only [State.redirect, hi, hn, hg]
  have hat : ∀ i, t.arpAt i = s.arpAt i := State.arpAt_congr ha
  have hfind : ∀ k, t.arpFind k = s.arpFind k := fun k => by simp only [State.arpFind, State.nArp, ha, hat]
  have hfree : t.arpFree = s.arpFree := by simp only [State.arpFree, State.nArp, ha, hat]
  simp only [State.learn, State.arpInsert, hr, hfind, hfree, hf, hat]
  split
  · exact ha
  · split
    · exact ha
    · split
      · simp [ha]
      · split
        · simp [ha]
        · exact ha

/-- R164, all that resolve can answer. -/
theorem State.resolve_of_ResolvesTo {s : State} {ip : IPv4} {mac : Mac} {k : Nat} {key : IPv4} (h : s.ResolvesTo ip mac k key) :
    s.resolve ip = ⟨k == 1, k == 2, mac, key⟩ ∧ k ≤ 2 := by
  rcases h with ⟨rfl, rfl, rfl, rfl⟩ | ⟨hb, rfl, h0, rfl, i, hi, rfl⟩ | ⟨hb, rfl, hn, rfl, rfl⟩
  · simp [State.resolve, bcastIp, bcastMac]
  · have hf := (s.arpFind_eq_some_iff _ i).2 ⟨h0, hi⟩
    simp [State.resolve, bcastIp, hb, State.redirect_eq, hf]
  · have hf := (s.arpFind_eq_none_iff _).2 hn
    simp [State.resolve, bcastIp, bcastMac, hb, State.redirect_eq, hf]

/-! ### Ageing (R168) -/

/-- A tick empties a live slot at its last second, lowers any other live slot's ttl by one, and leaves an empty slot. -/
theorem State.arpAt_map_tick (s : State) (i : Nat) :
    ({ s with arp := s.arp.map ArpSlot.tick } : State).arpAt i = (s.arpAt i).tick := by
  simp only [State.arpAt, List.getD_eq_getElem?_getD, List.getElem?_map]
  cases s.arp[i]? with
  | none => rfl
  | some e => rfl

end Sys2Proof.Machine
end

