-- ==== Sys2Proof/Laws/Memory.lean ====
section
/-! SUPPORT. What the memory operations do (spec/10_state.md rule R36): reading after a write, the canonical form and the bound
of the written offsets, which every write keeps, and that canonical memories with equal contents are equal. -/

namespace Sys2Proof.Machine

/-! ### Reading after writing -/

@[simp] theorem Memory.get_nil (x : Nat) : Memory.get [] x = none := rfl

/-- One byte written: that offset holds it, every other offset is as before. -/
theorem Memory.get_set (m : Memory) (a : Nat) (b : Byte) (x : Nat) :
    Memory.get (Memory.set m a b) x = if x = a then some b else Memory.get m x := by
  induction m with
  | nil => simp [Memory.set, Memory.get]
  | cons c m ih =>
    obtain ⟨y, v⟩ := c
    simp only [Memory.set]
    split
    · simp only [Memory.get]
    · split
      · subst y; simp only [Memory.get]; split <;> rfl
      · simp only [Memory.get, ih]
        split
        · rw [if_neg (by omega)]
        · rfl

/-- Consecutive bytes written: the offsets of the range hold them, every other offset is as before. -/
theorem Memory.get_setAll (m : Memory) (a : Nat) (bs : List Byte) (x : Nat) :
    Memory.get (Memory.setAll m a bs) x =
      if h : a ≤ x ∧ x < a + bs.length then some (bs[x - a]'(by omega)) else Memory.get m x := by
  induction bs generalizing m a with
  | nil => rw [dif_neg (by simp only [List.length_nil]; omega)]; rfl
  | cons b bs ih =>
    simp only [Memory.setAll, ih, Memory.get_set, List.length_cons]
    by_cases hx : x = a
    · subst hx; rw [dif_neg (by omega), dif_pos (by omega), if_pos rfl]; simp
    · rw [if_neg hx]
      by_cases h : a + 1 ≤ x ∧ x < a + 1 + bs.length
      · obtain ⟨k, rfl⟩ : ∃ k, x = a + 1 + k := ⟨x - (a + 1), by omega⟩
        rw [dif_pos h, dif_pos (by omega)]
        simp [show a + 1 + k - a = k + 1 by omega]
      · rw [dif_neg h, dif_neg (by omega)]

/-- A range and the range that follows it, written one after the other, are one range. -/
theorem Memory.setAll_setAll (m : Memory) (a : Nat) (xs ys : List Byte) :
    Memory.setAll (Memory.setAll m a xs) (a + xs.length) ys = Memory.setAll m a (xs ++ ys) := by
  induction xs generalizing m a with
  | nil => rfl
  | cons x xs ih =>
    rw [List.length_cons, show a + (xs.length + 1) = a + 1 + xs.length by omega]
    exact ih (Memory.set m a x) (a + 1)

/-- Fields written one after the other: the first field, then the rest. -/
theorem Memory.writeFields_cons (m : Memory) (off n v : Nat) (rest : List (Nat × Nat × Nat)) :
    Memory.writeFields m ((off, n, v) :: rest) = Memory.writeFields (Memory.setAll m off (beBytes n v)) rest := rfl

/-- Every field begins where the field before it ends, the first at `off`. -/
def contiguousFrom (off : Nat) (fields : List (Nat × Nat × Nat)) : Prop :=
  match fields with
  | [] => True
  | (a, n, _) :: rest => a = off ∧ contiguousFrom (off + n) rest

/-- Contiguous fields are one range. -/
theorem Memory.writeFields_contiguous {off : Nat} {fields : List (Nat × Nat × Nat)} (h : contiguousFrom off fields)
    (m : Memory) :
    Memory.writeFields m fields = Memory.setAll m off (fields.flatMap fun f => beBytes f.2.1 f.2.2) := by
  induction fields generalizing m off with
  | nil => rfl
  | cons f fields ih =>
    obtain ⟨a, n, v⟩ := f
    obtain ⟨rfl, h⟩ := h
    have hl : (beBytes n v).length = n := by simp [beBytes]
    rw [Memory.writeFields_cons, ih h, List.flatMap_cons, ← Memory.setAll_setAll, hl]

/-! ### The canonical form -/

/-- A tail of a canonical memory is canonical. -/
theorem Memory.wf_tail {c : Host.Cell} {m : Memory} (h : Memory.wf (c :: m) = true) : Memory.wf m = true := by
  cases m with
  | nil => rfl
  | cons d m => simp only [Memory.wf, Bool.and_eq_true] at h; exact h.2

/-- In a canonical memory every offset after the first entry's is greater. -/
theorem Memory.wf_lt_of_mem {a : Nat} {b : Byte} {m : Memory} (h : Memory.wf ((a, b) :: m) = true) :
    ∀ c, c ∈ m → a < c.1 := by
  induction m generalizing a b with
  | nil => exact fun c hc => absurd hc List.not_mem_nil
  | cons d m ih =>
    obtain ⟨y, v⟩ := d
    have hay : a < y := by simp only [Memory.wf, Bool.and_eq_true, decide_eq_true_eq] at h; exact h.1
    intro c hc
    rcases List.mem_cons.1 hc with rfl | hc
    · exact hay
    · exact Nat.lt_trans hay (ih (Memory.wf_tail h) c hc)

/-- An entry below every offset of a canonical memory may stand before it. -/
theorem Memory.wf_cons {a : Nat} {b : Byte} {m : Memory} (h : Memory.wf m = true) (hlt : ∀ c, c ∈ m → a < c.1) :
    Memory.wf ((a, b) :: m) = true := by
  cases m with
  | nil => rfl
  | cons d m =>
    obtain ⟨y, v⟩ := d
    simp only [Memory.wf, Bool.and_eq_true, decide_eq_true_eq]
    exact ⟨hlt (y, v) (by simp), h⟩

/-- An entry after a one-byte write is the byte written or an old entry. -/
theorem Memory.mem_set {m : Memory} {a : Nat} {b : Byte} {c : Host.Cell} (h : c ∈ Memory.set m a b) : c = (a, b) ∨ c ∈ m := by
  induction m with
  | nil => simpa [Memory.set] using h
  | cons d m ih =>
    obtain ⟨y, v⟩ := d
    simp only [Memory.set] at h
    split at h
    · simpa only [List.mem_cons] using h
    · split at h
      · rcases List.mem_cons.1 h with h | h
        · exact .inl h
        · exact .inr (List.mem_cons_of_mem _ h)
      · rcases List.mem_cons.1 h with h | h
        · exact .inr (by simp [h])
        · exact (ih h).imp id (List.mem_cons_of_mem _)

/-- A one-byte write keeps the canonical form. -/
theorem Memory.wf_set {m : Memory} (h : Memory.wf m = true) (a : Nat) (b : Byte) : Memory.wf (Memory.set m a b) = true := by
  induction m with
  | nil => rfl
  | cons d m ih =>
    obtain ⟨y, v⟩ := d
    simp only [Memory.set]
    split
    · rename_i hlt
      refine Memory.wf_cons h fun c hc => ?_
      rcases List.mem_cons.1 hc with rfl | hc
      · exact hlt
      · exact Nat.lt_trans hlt (Memory.wf_lt_of_mem h c hc)
    · split
      · rename_i heq
        subst heq
        exact Memory.wf_cons (Memory.wf_tail h) (Memory.wf_lt_of_mem h)
      · refine Memory.wf_cons (ih (Memory.wf_tail h)) fun c hc => ?_
        rcases Memory.mem_set hc with rfl | hc
        · show y < a; omega
        · exact Memory.wf_lt_of_mem h c hc

/-- A write of consecutive bytes keeps the canonical form. -/
theorem Memory.wf_setAll {m : Memory} (h : Memory.wf m = true) (a : Nat) (bs : List Byte) :
    Memory.wf (Memory.setAll m a bs) = true := by
  induction bs generalizing m a with
  | nil => exact h
  | cons b bs ih => exact ih (Memory.wf_set h a b) (a + 1)

/-- A write of a table of fields keeps the canonical form. -/
theorem Memory.wf_writeFields {m : Memory} (h : Memory.wf m = true) (fields : List (Nat × Nat × Nat)) :
    Memory.wf (Memory.writeFields m fields) = true := by
  induction fields generalizing m with
  | nil => exact h
  | cons f fields ih => exact ih (Memory.wf_setAll h f.1 _)

/-- The memory at reset is canonical. -/
theorem Memory.wf_reset : Memory.wf State.reset.buf = true := rfl

/-! ### The offsets written -/

/-- An entry after a write of consecutive bytes lies in the range or was there before. -/
theorem Memory.mem_setAll {m : Memory} {a : Nat} {bs : List Byte} {c : Host.Cell} (h : c ∈ Memory.setAll m a bs) :
    (a ≤ c.1 ∧ c.1 < a + bs.length) ∨ c ∈ m := by
  induction bs generalizing m a with
  | nil => exact .inr h
  | cons b bs ih =>
    simp only [List.length_cons]
    rcases ih h with ⟨h1, h2⟩ | h
    · exact .inl ⟨by omega, by omega⟩
    · rcases Memory.mem_set h with rfl | h
      · exact .inl ⟨Nat.le_refl _, by show a < _; omega⟩
      · exact .inr h

@[simp] theorem beBytes_length (n v : Nat) : (beBytes n v).length = n := by simp [beBytes]

/-- An entry after a write of a table of fields below `k` lies below `k` or was there before. -/
theorem Memory.mem_writeFields {m : Memory} {k : Nat} {fields : List (Nat × Nat × Nat)} {c : Host.Cell}
    (hk : ∀ f, f ∈ fields → f.1 + f.2.1 ≤ k) (h : c ∈ Memory.writeFields m fields) : c.1 < k ∨ c ∈ m := by
  induction fields generalizing m with
  | nil => exact .inr h
  | cons f fields ih =>
    rcases ih (fun g hg => hk g (List.mem_cons_of_mem _ hg)) h with h | h
    · exact .inl h
    · obtain ⟨off, n, v⟩ := f
      have hf := hk (off, n, v) (by simp)
      rcases Memory.mem_setAll h with ⟨_, h2⟩ | h
      · simp only [beBytes_length] at h2 hf; exact .inl (by omega)
      · exact .inr h

/-! ### Equal contents are equal lists -/

/-- What a listed offset reads as is listed. -/
theorem Memory.mem_of_get {m : Memory} {a : Nat} {b : Byte} (h : Memory.get m a = some b) : (a, b) ∈ m := by
  induction m with
  | nil => simp at h
  | cons d m ih =>
    obtain ⟨y, v⟩ := d
    simp only [Memory.get] at h
    split at h
    · rename_i e; subst e; simp_all
    · exact List.mem_cons_of_mem _ (ih h)

/-- In a canonical memory an entry is what its offset reads as. -/
theorem Memory.get_of_mem {m : Memory} (h : Memory.wf m = true) {a : Nat} {b : Byte} (hm : (a, b) ∈ m) :
    Memory.get m a = some b := by
  induction m with
  | nil => simp at hm
  | cons d m ih =>
    obtain ⟨y, v⟩ := d
    simp only [Memory.get]
    rcases List.mem_cons.1 hm with e | hm
    · cases e; simp
    · rw [if_neg (by have := Memory.wf_lt_of_mem h _ hm; simp only at this; omega)]
      exact ih (Memory.wf_tail h) hm

/-- Two canonical memories that read the same everywhere are the same list. -/
theorem Memory.ext_of_wf {m n : Memory} (hm : Memory.wf m = true) (hn : Memory.wf n = true)
    (h : ∀ a, Memory.get m a = Memory.get n a) : m = n := by
  induction m generalizing n with
  | nil =>
    cases n with
    | nil => rfl
    | cons d n => have := h d.1; simp [Memory.get] at this
  | cons c m ih =>
    cases n with
    | nil => have := h c.1; simp [Memory.get] at this
    | cons d n =>
      obtain ⟨x, b⟩ := c
      obtain ⟨y, v⟩ := d
      have key : ∀ {x y : Nat} {b v : Byte} {m n : Memory}, Memory.wf ((y, v) :: n) = true →
          Memory.get ((x, b) :: m) x = Memory.get ((y, v) :: n) x → y ≤ x := by
        intro x y b v m n hn h
        have h' : Memory.get ((y, v) :: n) x = some b := by simpa [Memory.get] using h.symm
        rcases List.mem_cons.1 (Memory.mem_of_get h') with e | e
        · cases e; exact Nat.le_refl _
        · exact Nat.le_of_lt (Memory.wf_lt_of_mem hn _ e)
      obtain rfl : x = y := Nat.le_antisymm (key hm (h y).symm) (key hn (h x))
      have hb := h x
      simp only [Memory.get, if_true, Option.some.injEq] at hb
      subst hb
      congr 1
      refine ih (Memory.wf_tail hm) (Memory.wf_tail hn) fun a => ?_
      have ha := h a
      simp only [Memory.get] at ha
      split at ha
      · rename_i e
        subst e
        have none_of : ∀ {m : Memory}, Memory.wf ((a, b) :: m) = true → Memory.get m a = none := by
          intro m hm
          cases hg : Memory.get m a with
          | none => rfl
          | some w => exact absurd (Memory.wf_lt_of_mem hm _ (Memory.mem_of_get hg)) (Nat.lt_irrefl a)
        rw [none_of hm, none_of hn]
      · exact ha

end Sys2Proof.Machine
end

