-- ==== Sys2Proof/Laws/Buffer.lean ====
section
/-! SUPPORT. The bytes of BUF and the big-endian accesses (spec/00_scope.md rule R11, spec/20_memory.md rule R61): each access
spec'd once, in the vocabulary of Safety.lean. -/

namespace Sys2Proof.Machine

/-! ### One byte -/

/-- A byte of BUF depends on the written bytes and the power-on alone. -/
theorem State.bufByte_congr {s t : State} (hb : t.buf = s.buf) (hp : t.powerOns = s.powerOns) (a : Nat) :
    t.bufByte a = s.bufByte a := by
  simp only [State.bufByte, hb, hp]

/-- R11, `MemWrite`: byte `k` of the range takes byte `k` of the value, most significant first, and no other byte changes. -/
theorem State.bufByte_memWrite (s : State) (off n v x : Nat) :
    (s.memWrite off n v).bufByte x =
      if off ≤ x ∧ x < off + n then BitVec.ofNat 8 (v >>> (8 * (off + n - 1 - x))) else s.bufByte x := by
  simp only [State.bufByte, State.memWrite, Memory.get_setAll, beBytes_length]
  split
  · simp only [beBytes, List.getElem_map, List.getElem_range, Option.getD_some]
    congr 2
    omega
  · rfl

/-- A range of BUF written with `bs`: its bytes are `bs`, and no other byte changes. -/
theorem State.bufByte_setAll (s : State) (off : Nat) (bs : List Byte) (x : Nat) :
    ({ s with buf := Memory.setAll s.buf off bs } : State).bufByte x =
      if h : off ≤ x ∧ x < off + bs.length then bs[x - off]'(by omega) else s.bufByte x := by
  simp only [State.bufByte, Memory.get_setAll]
  split
  · rfl
  · rfl

/-- Every entry of BUF is what its byte reads as. -/
theorem State.bufByte_of_mem {s : State} (h : Memory.wf s.buf = true) {a : Nat} {b : Byte} (hm : (a, b) ∈ s.buf) :
    s.bufByte a = b := by
  simp only [State.bufByte, Memory.get_of_mem h hm, Option.getD_some]

@[simp] theorem State.bufBytes_length (s : State) (off n : Nat) : (s.bufBytes off n).length = n := by simp [State.bufBytes]

/-! ### Big-endian values -/

theorem State.be8_lt (s : State) (a : Nat) : s.be8 a < 2 ^ 8 := (s.bufByte a).isLt

theorem State.be16_lt (s : State) (a : Nat) : s.be16 a < 2 ^ 16 := by
  have h1 := s.be8_lt a
  have h2 := s.be8_lt (a + 1)
  simp only [State.be16]
  omega

theorem State.be32_lt (s : State) (a : Nat) : s.be32 a < 2 ^ 32 := by
  have h1 := s.be16_lt a
  have h2 := s.be16_lt (a + 2)
  simp only [State.be32]
  omega

theorem State.be48_lt (s : State) (a : Nat) : s.be48 a < 2 ^ 48 := by
  have h1 := s.be32_lt a
  have h2 := s.be16_lt (a + 4)
  simp only [State.be48]
  omega

/-- `MemRead(off, 1)`. -/
theorem State.memRead_one (s : State) (a : Nat) : s.memRead a 1 = s.be8 a := by
  simp [State.memRead, State.bufBytes, beValue, State.be8]

/-- `MemRead(off, 2)`. -/
theorem State.memRead_two (s : State) (a : Nat) : s.memRead a 2 = s.be16 a := by
  simp [State.memRead, State.bufBytes, beValue, State.be16, State.be8, List.range_succ]

/-- `MemRead(off, 4)`. -/
theorem State.memRead_four (s : State) (a : Nat) : s.memRead a 4 = s.be32 a := by
  simp [State.memRead, State.bufBytes, beValue, State.be32, State.be16, State.be8, List.range_succ, Nat.add_assoc]
  omega

/-- `MemRead(off, 6)`. -/
theorem State.memRead_six (s : State) (a : Nat) : s.memRead a 6 = s.be48 a := by
  simp [State.memRead, State.bufBytes, beValue, State.be48, State.be32, State.be16, State.be8, List.range_succ, Nat.add_assoc]
  omega

theorem State.read8_toNat (s : State) (a : Nat) : (s.read8 a).toNat = s.be8 a := by
  simp only [State.read8, State.memRead_one, BitVec.toNat_ofNat, Nat.mod_eq_of_lt (s.be8_lt a)]

theorem State.read16_toNat (s : State) (a : Nat) : (s.read16 a).toNat = s.be16 a := by
  simp only [State.read16, State.memRead_two, BitVec.toNat_ofNat, Nat.mod_eq_of_lt (s.be16_lt a)]

theorem State.read32_toNat (s : State) (a : Nat) : (s.read32 a).toNat = s.be32 a := by
  simp only [State.read32, State.memRead_four, BitVec.toNat_ofNat, Nat.mod_eq_of_lt (s.be32_lt a)]

theorem State.read48_toNat (s : State) (a : Nat) : (s.read48 a).toNat = s.be48 a := by
  simp only [State.read48, State.memRead_six, BitVec.toNat_ofNat, Nat.mod_eq_of_lt (s.be48_lt a)]

theorem State.read8_eq (s : State) (a : Nat) : s.read8 a = BitVec.ofNat 8 (s.be8 a) := by
  simp only [State.read8, State.memRead_one]

theorem State.read16_eq (s : State) (a : Nat) : s.read16 a = BitVec.ofNat 16 (s.be16 a) := by
  simp only [State.read16, State.memRead_two]

theorem State.read32_eq (s : State) (a : Nat) : s.read32 a = BitVec.ofNat 32 (s.be32 a) := by
  simp only [State.read32, State.memRead_four]

theorem State.read48_eq (s : State) (a : Nat) : s.read48 a = BitVec.ofNat 48 (s.be48 a) := by
  simp only [State.read48, State.memRead_six]

/-! ### Values as bytes -/

/-- The bytes of a MAC (R10). -/
theorem beBytes_mac (m : Mac) : beBytes 6 m.toNat = macBytes m := rfl

/-- The bytes of an IPv4 address (R10). -/
theorem beBytes_ip (a : IPv4) : beBytes 4 a.toNat = ipBytes a := rfl

/-- The bytes of a 16-bit value (R61). -/
theorem beBytes_half (h : Half) : beBytes 2 h.toNat = halfBytes h := rfl

end Sys2Proof.Machine
end

