-- ==== Sys2Proof/Laws/Checksum.lean ====
section
/-! SUPPORT. The checksum arithmetic (spec/42_checksum.md rules R140-R142) as exact numbers: one addition, the sum of a range, the
final fold, and that the end-around sum is determined by its total. -/

namespace Sys2Proof.Machine

/-! ### One addition (R140) -/

/-- R140: the sum, with one end-around carry when it does not fit in 32 bits. -/
theorem add16_toNat (acc : Word) (w : Half) :
    (add16 acc w).toNat =
      if acc.toNat + w.toNat < 2 ^ 32 then acc.toNat + w.toNat else acc.toNat + w.toNat - 2 ^ 32 + 1 := by
  have h1 := acc.isLt
  have h2 := w.isLt
  simp only [add16, BitVec.toNat_ofNat]
  split <;> omega

/-- An accumulator is the end-around sum of itself. -/
theorem EndAroundSum_self (acc : Word) : EndAroundSum acc acc.toNat := by
  refine ⟨rfl, ?_⟩
  rw [← BitVec.toNat_inj]
  simp

/-- Adding a word adds it to the total. -/
theorem EndAroundSum_add16 {acc : Word} {total : Nat} (h : EndAroundSum acc total) (w : Half) :
    EndAroundSum (add16 acc w) (total + w.toNat) := by
  obtain ⟨h1, h2⟩ := h
  have := acc.isLt
  have := w.isLt
  rw [← BitVec.toNat_inj] at h2
  refine ⟨?_, ?_⟩
  · rw [add16_toNat]; split <;> omega
  · rw [← BitVec.toNat_inj, add16_toNat]
    simp only [BitVec.toNat_ofNat] at h2 ⊢
    split <;> omega

/-- The end-around sum is determined by its total. -/
theorem EndAroundSum_unique {a b : Word} {total : Nat} (ha : EndAroundSum a total) (hb : EndAroundSum b total) : a = b := by
  obtain ⟨a1, a2⟩ := ha
  obtain ⟨b1, b2⟩ := hb
  have := a.isLt
  have := b.isLt
  rw [← BitVec.toNat_inj] at a2 b2 ⊢
  simp only [BitVec.toNat_ofNat] at a2 b2
  omega

/-! ### The sum of a range (R141) -/

/-- The word of two bytes. -/
theorem byte_append_toNat (a b : Byte) : (a ++ b : Half).toNat = a.toNat * 2 ^ 8 + b.toNat := by
  have := b.isLt
  rw [BitVec.toNat_append, ← Nat.shiftLeft_add_eq_or_of_lt b.isLt, Nat.shiftLeft_eq]

/-- No bytes have no words. -/
@[simp] theorem State.wordSum_zero (s : State) (off : Nat) : s.wordSum off 0 = 0 := rfl

/-- The first word of a range, then the rest. -/
theorem State.wordSum_succ (s : State) (off len : Nat) (h : 0 < len) :
    s.wordSum off len = s.rangeWord off len 0 + s.wordSum (off + 2) (len - 2) := by
  simp only [State.wordSum]
  rw [show (len + 1) / 2 = (len - 2 + 1) / 2 + 1 by omega, List.range_succ_eq_map, List.map_cons, List.map_map, List.sum_cons]
  refine congrArg (fun l => s.rangeWord off len 0 + List.sum l) (List.map_congr_left fun k _ => ?_)
  simp only [Function.comp_apply, State.rangeWord, Nat.succ_eq_add_one]
  rw [show off + 2 * (k + 1) = off + 2 + 2 * k by omega]
  by_cases hk : 2 * (k + 1) + 1 < len
  · rw [if_pos hk, if_pos (by omega)]
  · rw [if_neg hk, if_neg (by omega)]

/-- The bytes of a range of at least two: the first two, then the rest. -/
theorem State.bufBytes_add_two (s : State) (off n : Nat) :
    s.bufBytes off (n + 2) = s.bufByte off :: s.bufByte (off + 1) :: s.bufBytes (off + 2) n := by
  simp only [State.bufBytes, List.range_succ_eq_map, List.map_cons, List.map_map, Nat.add_zero]
  congr 2
  refine List.map_congr_left fun k _ => ?_
  simp only [Function.comp_apply]
  congr 1
  omega

/-- R141: summing a range adds its exact word sum to the total. -/
theorem State.sumRange_spec (s : State) (len : Nat) :
    ∀ (off : Nat) (acc : Word) (total : Nat), EndAroundSum acc total →
      EndAroundSum (s.sumRange acc off len) (total + s.wordSum off len) := by
  induction len using Nat.strongRecOn with
  | _ len ih =>
    intro off acc total h
    match len with
    | 0 => exact h
    | 1 =>
      have hb : s.bufBytes off 1 = [s.bufByte off] := by simp [State.bufBytes]
      rw [State.wordSum_succ s off 1 (by omega), State.sumRange, hb, sumBytes]
      simpa [State.rangeWord, byte_append_toNat, State.be8] using EndAroundSum_add16 h (s.bufByte off ++ 0#8)
    | n + 2 =>
      have := ih n (by omega) (off + 2) _ _ (EndAroundSum_add16 h (s.bufByte off ++ s.bufByte (off + 1)))
      rw [State.wordSum_succ s off (n + 2) (by omega), State.sumRange, State.bufBytes_add_two, sumBytes]
      simpa [State.rangeWord, byte_append_toNat, State.be8, State.sumRange, Nat.add_assoc] using this

/-- R149: a range of even length, then the range that follows it. -/
theorem State.wordSum_append (s : State) (n : Nat) :
    ∀ (off m : Nat), n % 2 = 0 → s.wordSum off (n + m) = s.wordSum off n + s.wordSum (off + n) m := by
  induction n using Nat.strongRecOn with
  | _ n ih =>
    intro off m hn
    match n with
    | 0 => simp
    | n + 2 =>
      have h := ih n (by omega) (off + 2) m (by omega)
      rw [State.wordSum_succ s off (n + 2 + m) (by omega), State.wordSum_succ s off (n + 2) (by omega),
        show n + 2 + m - 2 = n + m by omega, show n + 2 - 2 = n by omega, h, show off + (n + 2) = off + 2 + n by omega]
      simp only [State.rangeWord, if_pos (show 2 * 0 + 1 < n + 2 + m by omega), if_pos (show 2 * 0 + 1 < n + 2 by omega)]
      omega

/-- The word sum of a range depends on the range's bytes alone. -/
theorem State.wordSum_congr {s t : State} {off len : Nat} (h : ∀ a, off ≤ a → a < off + len → t.bufByte a = s.bufByte a) :
    t.wordSum off len = s.wordSum off len := by
  refine congrArg List.sum (List.map_congr_left fun k hk => ?_)
  rw [List.mem_range] at hk
  simp only [State.rangeWord, State.be8]
  rw [h _ (by omega) (by omega)]
  split
  · rw [h _ (by omega) (by omega)]
  · rfl

/-! ### The final fold (R142) -/

/-- One fold keeps the value modulo 0xFFFF and whether it is 0. -/
theorem fold16_spec (x : Nat) : fold16 x % 0xFFFF = x % 0xFFFF ∧ (fold16 x = 0 ↔ x = 0) := by
  simp only [fold16]
  omega

/-- R142 as arithmetic modulo 0xFFFF. -/
theorem checksumFinal_toNat (acc : Word) : (checksumFinal acc).toNat = checksumValue acc.toNat := by
  have h0 := acc.isLt
  have h1 := fold16_spec acc.toNat
  have h2 := fold16_spec (fold16 acc.toNat)
  have hle : fold16 (fold16 acc.toNat) ≤ 0xFFFF := by simp only [fold16]; omega
  simp only [checksumFinal, BitVec.toNat_ofNat, checksumValue]
  split
  · omega
  · split <;> omega

end Sys2Proof.Machine
end

