-- ==== Sys2Proof/Laws/Operands.lean ====
section
/-! SUPPORT. Operand assembly (spec/30_encoding.md rules R84, R85): what each operand form gives, said once. -/

namespace Sys2Proof.Machine

/-! ### Registers and their halves -/

/-- A register made of two halves, as a number. -/
theorem halves_toNat (hi lo : Half) : (hi ++ lo : Word).toNat = hi.toNat * 2 ^ 16 + lo.toNat := by
  rw [BitVec.toNat_append, ← Nat.shiftLeft_add_eq_or_of_lt lo.isLt, Nat.shiftLeft_eq]

/-- `zext_32` of a 16-bit value. -/
theorem halfWord_eq (h : Half) : (0#16 ++ h : Word) = halfWord h := by
  apply BitVec.eq_of_toNat_eq
  have := h.isLt
  rw [halves_toNat]
  simp [halfWord]
  omega

/-- The number in a zero-extended 16-bit value. -/
theorem halfWord_toNat (h : Half) : (halfWord h).toNat = h.toNat := by
  have := h.isLt
  simp [halfWord]
  omega

/-! ### Operand forms -/

/-- R130, R131: the width and range checks of BUF_RD and BUF_WR, all that they can answer. -/
theorem State.bufOperands_cases (s : State) :
    (s.bufOperands = none ∧
      ((s.arg1.toNat ≠ 1 ∧ s.arg1.toNat ≠ 2 ∧ s.arg1.toNat ≠ 4) ∨ s.fixed.bufSize < s.arg0.toNat + s.arg1.toNat)) ∨
    (s.bufOperands = some (s.arg0.toNat, s.arg1.toNat) ∧
      (s.arg1.toNat = 1 ∨ s.arg1.toNat = 2 ∨ s.arg1.toNat = 4) ∧ s.arg0.toNat + s.arg1.toNat ≤ s.fixed.bufSize) := by
  have h : (s.arg1 = 1#32 ∨ s.arg1 = 2#32 ∨ s.arg1 = 4#32) ↔ (s.arg1.toNat = 1 ∨ s.arg1.toNat = 2 ∨ s.arg1.toNat = 4) := by
    simp [← BitVec.toNat_inj]
  simp only [State.bufOperands, State.argWidth, State.inBuf, h]
  split
  · rename_i he
    split at he
    · cases he
    · exact .inl ⟨rfl, .inl (by omega)⟩
  · rename_i w he
    split at he
    · rename_i h1
      cases he
      by_cases h2 : s.arg0.toNat + s.arg1.toNat ≤ s.fixed.bufSize
      · exact .inr ⟨by simp [h2], h1, h2⟩
      · exact .inl ⟨by simp [h2], .inr (by omega)⟩
    · cases he

/-- R233: a port operand that is 0 or above 0xFFFF is refused. -/
theorem State.argPort_eq_none {s : State} (h : s.arg0.toNat = 0 ∨ 0xFFFF < s.arg0.toNat) : s.argPort = none := by
  simp only [State.argPort]
  rw [if_pos]
  rcases h with h | h
  · exact .inl (BitVec.eq_of_toNat_eq h)
  · exact .inr h

/-- R233: any other port operand is the low half of ARG0. -/
theorem State.argPort_eq_some {s : State} {port : Half} (h : s.arg0 = 0#16 ++ port) (h0 : port ≠ 0#16) :
    s.argPort = some port := by
  have hn : s.arg0.toNat = port.toNat := by rw [h, BitVec.toNat_append]; simp
  have hp : port.toNat ≠ 0 := fun e => h0 (BitVec.eq_of_toNat_eq e)
  simp only [State.argPort]
  rw [if_neg]
  · congr 1
    apply BitVec.eq_of_toNat_eq
    simp [lowHalf, BitVec.extractLsb'_toNat, hn, Nat.mod_eq_of_lt port.isLt]
  · rintro (e | e)
    · rw [e] at hn; exact hp hn.symm
    · have := port.isLt; omega

/-- R85: the two ports of ARG1. -/
theorem State.argPorts_eq {s : State} {lp rp : Half} (h : s.arg1 = lp ++ rp) :
    s.argLocalPort = lp ∧ s.argRemotePort = rp := by
  have hn := halves_toNat lp rp
  rw [← h] at hn
  have := lp.isLt
  have := rp.isLt
  refine ⟨BitVec.eq_of_toNat_eq ?_, BitVec.eq_of_toNat_eq ?_⟩
  · simp only [State.argLocalPort, highHalf, BitVec.extractLsb'_toNat, hn, Nat.shiftRight_eq_div_pow]; omega
  · simp only [State.argRemotePort, lowHalf, BitVec.extractLsb'_toNat, hn, Nat.shiftRight_eq_div_pow]; omega

end Sys2Proof.Machine
end

