-- ==== Sys2Proof/Laws/Sockets.lean ====
section
/-! SUPPORT. What each primitive of the port multiplexer and the session tables answers (spec/45_sockets.md rules R230-R232), said
once, and the slots after each update. -/

namespace Sys2Proof.Machine

/-! ### Searching (R230-R232) -/

/-- R34, R230: in use means below the capacity, with its own number in `socket`. -/
theorem State.inUse_iff (s : State) (t : Table) (i : Nat) :
    s.inUse t i = true ↔ i < s.nSess t ∧ (s.sessAt t i).socket.toNat = i := by
  simp [State.inUse]

/-- R231. -/
theorem State.findTuple_eq_some_iff (s : State) (t : Table) (rip : IPv4) (lp rp : Half) (i : Nat) :
    s.findTuple t rip lp rp = some i ↔ LeastIndex (s.nSess t) (s.sessHolds t rip lp rp) i := by
  simp [State.findTuple, least_eq_some_iff, LeastIndex, State.sessHolds, Session.hasTuple, and_assoc]

/-- R231. -/
theorem State.findTuple_eq_none_iff (s : State) (t : Table) (rip : IPv4) (lp rp : Half) :
    s.findTuple t rip lp rp = none ↔ NoIndex (s.nSess t) (s.sessHolds t rip lp rp) := by
  simp [State.findTuple, least_eq_none_iff, NoIndex, State.sessHolds, Session.hasTuple, and_assoc]

/-- R232. -/
theorem State.findApp_eq_some_iff (s : State) (t : Table) (port : Half) (j : Nat) :
    s.findApp t port = some j ↔ LeastIndex (s.nApp t) (s.appHolds t port) j := by
  simp [State.findApp, least_eq_some_iff, LeastIndex, State.appHolds]

/-- R232. -/
theorem State.findApp_eq_none_iff (s : State) (t : Table) (port : Half) :
    s.findApp t port = none ↔ NoIndex (s.nApp t) (s.appHolds t port) := by
  simp [State.findApp, least_eq_none_iff, NoIndex, State.appHolds]

/-- R232. -/
theorem State.freeApp_eq_some_iff (s : State) (t : Table) (j : Nat) :
    s.freeApp t = some j ↔ LeastIndex (s.nApp t) (fun j => (s.appAt t j).port = 0#16) j := by
  simp [State.freeApp, least_eq_some_iff, LeastIndex]

/-- R232. -/
theorem State.freeApp_eq_none_iff (s : State) (t : Table) :
    s.freeApp t = none ↔ NoIndex (s.nApp t) (fun j => (s.appAt t j).port = 0#16) := by
  simp [State.freeApp, least_eq_none_iff, NoIndex]

/-- R232. -/
theorem State.freeSess_eq_some_iff (s : State) (t : Table) (i : Nat) :
    s.freeSess t = some i ↔ LeastIndex (s.nSess t) (fun i => s.inUse t i = false) i := by
  simp [State.freeSess, least_eq_some_iff, LeastIndex]

/-- R232. -/
theorem State.freeSess_eq_none_iff (s : State) (t : Table) :
    s.freeSess t = none ↔ NoIndex (s.nSess t) (fun i => s.inUse t i = false) := by
  simp [State.freeSess, least_eq_none_iff, NoIndex]

/-! ### Slots after an update -/

@[simp] theorem State.nApp_setApp (s : State) (t u : Table) (j : Nat) (a : App) : (s.setApp t j a).nApp u = s.nApp u := by
  cases t <;> cases u <;> simp [State.nApp, State.setApp]

@[simp] theorem State.nSess_setSess (s : State) (t u : Table) (i : Nat) (e : Session) :
    (s.setSess t i e).nSess u = s.nSess u := by
  cases t <;> cases u <;> simp [State.nSess, State.setSess]

@[simp] theorem State.nSess_newSess (s : State) (t u : Table) (i : Nat) (e : Session) :
    (s.newSess t i e).nSess u = s.nSess u := by
  cases t <;> cases u <;> simp [State.nSess, State.newSess]

@[simp] theorem State.nSess_freeSlot (s : State) (t u : Table) (h : Nat) : (s.freeSlot t h).nSess u = s.nSess u := by
  simp [State.freeSlot]

/-- After `APP(T)[j] <- a` that slot is `a`, and every other application slot is as before. -/
theorem State.appAt_setApp (s : State) (t u : Table) (j k : Nat) (a : App) :
    (s.setApp t j a).appAt u k = if t = u ∧ j = k ∧ j < s.nApp t then a else s.appAt u k := by
  cases t <;> cases u <;> simp [State.appAt, State.setApp, State.nApp, getD_set, -List.getD_eq_getElem?_getD]

/-- The UDP slots after a slot's shared fields are replaced. -/
theorem State.udpAt_setSess (s : State) (t : Table) (i k : Nat) (e : Session) :
    (s.setSess t i e).udpAt k = if t = .udp ∧ i = k ∧ i < s.nSess t then e else s.udpAt k := by
  cases t <;> simp [State.udpAt, State.setSess, State.nSess, getD_set, -List.getD_eq_getElem?_getD]

/-- The TCP slots after a slot's shared fields are replaced. -/
theorem State.tcpAt_setSess (s : State) (t : Table) (i k : Nat) (e : Session) :
    (s.setSess t i e).tcpAt k =
      if t = .tcp ∧ i = k ∧ i < s.nSess t then { s.tcpAt i with toSession := e } else s.tcpAt k := by
  cases t <;> simp [State.tcpAt, State.setSess, State.nSess, getD_set, -List.getD_eq_getElem?_getD]

/-- The UDP slots after a session is added. -/
theorem State.udpAt_newSess (s : State) (t : Table) (i k : Nat) (e : Session) :
    (s.newSess t i e).udpAt k = if t = .udp ∧ i = k ∧ i < s.nSess t then e else s.udpAt k := by
  cases t <;> simp [State.udpAt, State.newSess, State.nSess, getD_set, -List.getD_eq_getElem?_getD]

/-- The TCP slots after a session is added. -/
theorem State.tcpAt_newSess (s : State) (t : Table) (i k : Nat) (e : Session) :
    (s.newSess t i e).tcpAt k =
      if t = .tcp ∧ i = k ∧ i < s.nSess t then ⟨e, 0#32, 0#32, .handshakeOutgoing, false, false⟩ else s.tcpAt k := by
  cases t <;> simp [State.tcpAt, State.newSess, State.nSess, getD_set, -List.getD_eq_getElem?_getD]

/-- The slots' shared fields after a slot's shared fields are replaced. -/
theorem State.sessAt_setSess (s : State) (t u : Table) (i k : Nat) (e : Session) :
    (s.setSess t i e).sessAt u k = if t = u ∧ i = k ∧ i < s.nSess t then e else s.sessAt u k := by
  cases u
  · exact s.udpAt_setSess t i k e
  · simp only [State.sessAt, State.tcpAt_setSess]; split <;> rfl

/-- The slots' shared fields after a session is added. -/
theorem State.sessAt_newSess (s : State) (t u : Table) (i k : Nat) (e : Session) :
    (s.newSess t i e).sessAt u k = if t = u ∧ i = k ∧ i < s.nSess t then e else s.sessAt u k := by
  cases u
  · exact s.udpAt_newSess t i k e
  · simp only [State.sessAt, State.tcpAt_newSess]; split <;> rfl

end Sys2Proof.Machine
end

