-- ==== Sys2Proof/Laws/Dispatcher.lean ====
section
/-! SUPPORT. What the frame writers leave in BUF and what CLASSIFY can do to the state (spec/44_dispatcher.md), said once. -/

namespace Sys2Proof.Machine

/-! ### The frames the block builds -/

/-- The 42 bytes of an ARP frame from us (formats R88, R89). -/
def State.arpFrameBytes (s : State) (dst : Mac) (oper : Half) (tha : Mac) (tpa : IPv4) : List Byte :=
  macBytes dst ++ macBytes s.localMac ++ [0x08#8, 0x06#8, 0x00#8, 0x01#8, 0x08#8, 0x00#8, 0x06#8, 0x04#8] ++
    halfBytes oper ++ macBytes s.localMac ++ ipBytes s.localIp ++ macBytes tha ++ ipBytes tpa

/-- The 34 bytes of the headers IP_TX_HDR builds, with the checksum `c` (formats R88, R90). -/
def State.ipHeaderBytes (s : State) (mac : Mac) (dst : IPv4) (proto : Byte) (plen : Nat) (c : Half) : List Byte :=
  macBytes mac ++ macBytes s.localMac ++ [0x08#8, 0x00#8, 0x45#8, 0x00#8] ++ halfBytes (BitVec.ofNat 16 (20 + plen)) ++
    halfBytes s.ipId ++ [0x40#8, 0x00#8, s.fixed.ipTtl, proto] ++ halfBytes c ++ ipBytes s.localIp ++ ipBytes dst

@[simp] theorem macBytes_length (m : Mac) : (macBytes m).length = 6 := rfl
@[simp] theorem ipBytes_length (a : IPv4) : (ipBytes a).length = 4 := rfl
@[simp] theorem halfBytes_length (h : Half) : (halfBytes h).length = 2 := rfl

@[simp] theorem State.arpFrameBytes_length (s : State) (dst : Mac) (oper : Half) (tha : Mac) (tpa : IPv4) :
    (s.arpFrameBytes dst oper tha tpa).length = 42 := rfl

@[simp] theorem State.ipHeaderBytes_length (s : State) (mac : Mac) (dst : IPv4) (proto : Byte) (plen : Nat) (c : Half) :
    (s.ipHeaderBytes mac dst proto plen c).length = 34 := rfl

/-- A value's bytes, from its low 16 bits. -/
theorem beBytes_two (v : Nat) : beBytes 2 v = halfBytes (BitVec.ofNat 16 v) := by
  rw [← beBytes_half]
  simp only [beBytes, BitVec.toNat_ofNat]
  refine List.map_congr_left fun k hk => ?_
  rw [List.mem_range] at hk
  apply BitVec.eq_of_toNat_eq
  simp only [BitVec.toNat_ofNat, Nat.shiftRight_eq_div_pow]
  match k, hk with
  | 0, _ => simp; omega
  | 1, _ => simp

/-- A byte's only byte. -/
theorem beBytes_byte (b : Byte) : beBytes 1 b.toNat = [b] := by simp [beBytes]

/-- The ARP frame is one range of 42 bytes. -/
theorem State.writeArpFrame_buf (s : State) (dst : Mac) (oper : Half) (tha : Mac) (tpa : IPv4) :
    (s.writeArpFrame dst oper tha tpa).buf = Memory.setAll s.buf 0 (s.arpFrameBytes dst oper tha tpa) := by
  simp only [State.writeArpFrame]
  rw [Memory.writeFields_contiguous (off := 0) (by simp [contiguousFrom])]
  simp only [List.flatMap_cons, List.flatMap_nil, beBytes_mac, beBytes_ip, beBytes_half]
  rfl

/-- The Ethernet and IPv4 headers are one range of 34 bytes, the checksum field zero. -/
theorem State.writeIpHeader_buf (s : State) (mac : Mac) (dst : IPv4) (proto : Byte) (plen : Nat) :
    (s.writeIpHeader mac dst proto plen).buf = Memory.setAll s.buf 0 (s.ipHeaderBytes mac dst proto plen 0#16) := by
  simp only [State.writeIpHeader]
  rw [Memory.writeFields_contiguous (off := 0) (by simp [contiguousFrom])]
  simp only [List.flatMap_cons, List.flatMap_nil, beBytes_mac, beBytes_ip, beBytes_half, beBytes_two (20 + plen),
    beBytes_byte]
  rfl

/-- The bytes of BUF after an ARP frame is built. -/
theorem State.bufByte_writeArpFrame (s : State) (dst : Mac) (oper : Half) (tha : Mac) (tpa : IPv4) (a : Nat) :
    (s.writeArpFrame dst oper tha tpa).bufByte a =
      if h : a < (s.arpFrameBytes dst oper tha tpa).length then (s.arpFrameBytes dst oper tha tpa)[a] else s.bufByte a := by
  simp only [State.bufByte, State.writeArpFrame_buf, State.writeArpFrame_powerOns, Memory.get_setAll, Nat.zero_le, true_and,
    Nat.zero_add, Nat.sub_zero]
  split <;> rfl

/-- The bytes of BUF after the headers are built, the checksum field zero. -/
theorem State.bufByte_writeIpHeader (s : State) (mac : Mac) (dst : IPv4) (proto : Byte) (plen a : Nat) :
    (s.writeIpHeader mac dst proto plen).bufByte a =
      if h : a < (s.ipHeaderBytes mac dst proto plen 0#16).length then (s.ipHeaderBytes mac dst proto plen 0#16)[a]
      else s.bufByte a := by
  simp only [State.bufByte, State.writeIpHeader_buf, State.writeIpHeader_powerOns, Memory.get_setAll, Nat.zero_le, true_and,
    Nat.zero_add, Nat.sub_zero]
  split <;> rfl

/-! ### What CLASSIFY can do to the state (R190-R205) -/

/-- CLASSIFY learns at most one sender, and beyond that leaves the state, hands the buffer to the host, or stages one ARP
frame. -/
def State.classifyOutcome (s t : State) : Prop :=
  ∃ (ip : IPv4) (mac : Mac),
    t = s.learn ip mac ∨ t = { s.learn ip mac with own := .rx } ∨
      ∃ (dst : Mac) (oper : Half) (tha : Mac) (tpa : IPv4),
        t = { (s.learn ip mac).writeArpFrame dst oper tha tpa with own := .tx }

theorem State.classifyOutcome_self (s : State) : s.classifyOutcome s := ⟨0#32, 0#48, .inl (by simp [State.learn])⟩

/-- The protocol stage leaves the state or hands the buffer to the host. -/
theorem State.protocolStage_state (s : State) (h : IpHeader) (bc : Bool) :
    (s.protocolStage h bc).1 = s ∨ (s.protocolStage h bc).1 = { s with own := .rx } := by
  simp only [State.protocolStage]
  split
  · exact .inr rfl
  · split
    · simp only [State.udpStage]
      split
      · exact .inl rfl
      · split
        · exact .inl rfl
        · exact .inr rfl
    · split
      · simp only [State.tcpStage]
        split
        · exact .inl rfl
        · split
          · exact .inl rfl
          · exact .inr rfl
      · exact .inl rfl

/-- All that CLASSIFY's stages can do to the state. -/
theorem State.classifyFrame_state (s : State) (len : Nat) : s.classifyOutcome (s.classifyFrame len).1 := by
  simp only [State.classifyFrame]
  split
  · simp only [State.ethernetStage]
    split
    · simp only [State.arpStage]
      split
      · exact s.classifyOutcome_self
      · split
        · exact s.classifyOutcome_self
        · split
          · simp only [State.arpRequest]
            split
            · exact s.classifyOutcome_self
            · exact ⟨_, _, .inr (.inr ⟨_, _, _, _, rfl⟩)⟩
          · split
            · exact ⟨_, _, .inl rfl⟩
            · exact s.classifyOutcome_self
    · split
      · simp only [State.ipStage]
        split
        · exact s.classifyOutcome_self
        · split
          · exact s.classifyOutcome_self
          · split
            · exact s.classifyOutcome_self
            · exact ⟨_, _, (State.protocolStage_state _ _ _).imp id .inl⟩
      · exact s.classifyOutcome_self
  · exact s.classifyOutcome_self

/-- CLASSIFY ends with an error code, which it alone wrote, or with RC = OK after the stages (R190). -/
theorem execClassify_cases {s t : State} (h : exec .classify s = .next t) :
    ((s.fixed.bufSize < s.arg0.toNat ∨ s.own ≠ .free) ∧ t = { s with rc := t.rc, busy := false }) ∨
    (s.arg0.toNat ≤ s.fixed.bufSize ∧ s.own = .free ∧ ∃ (u : State) (r : Report), s.classifyOutcome u ∧
      t = { u with res0 := r.r0, res1 := r.r1, res2 := r.r2, res3 := r.r3, rc := .ok, busy := false }) := by
  simp only [exec, execClassify] at h
  split at h
  · cases h; exact .inl ⟨.inl ‹_›, rfl⟩
  · split at h
    · cases h; exact .inl ⟨.inr ‹_›, rfl⟩
    · rename_i h1 h2
      cases h
      exact .inr ⟨by omega, Decidable.not_not.1 h2, _, _, s.classifyFrame_state s.arg0.toNat, rfl⟩

/-- R302 item 2: after either reset the accepted IP frames are those to IP 0 and the broadcast UDP frames. -/
theorem State.ipAccepts_clear (s : State) (h : IpHeader) (bc : Bool) :
    s.clear.ipAccepts h bc = (h.dst == 0#32 || (h.proto == protoUdp && bc)) := rfl

/-- R121's corner case, for every frame that is not to IP 0 (log 20): after RESET only broadcast UDP frames are accepted. -/
theorem State.ipAccepts_clear_of_dst_ne_zero (s : State) (h : IpHeader) (bc : Bool) (hd : h.dst ≠ 0#32) :
    s.clear.ipAccepts h bc = (h.proto == protoUdp && bc) := by
  rw [State.ipAccepts_clear, beq_false_of_ne hd, Bool.false_or]

end Sys2Proof.Machine
end

