-- ==== Sys2Proof/Laws/PerInstr.lean ====
section
/-! SUPPORT. The family RoundTrip: decoding the encoding of a command gives the command back (spec/30_encoding.md rule R82), one
lemma per constructor of Instr. -/

namespace Sys2Proof.Laws

/-- R82: the command survives encoding and decoding. -/
def RoundTrip.Statement (i : Instr) : Prop := decode (encode i) = .ok i

theorem RoundTrip.nop : RoundTrip.Statement .nop := rfl
theorem RoundTrip.reset : RoundTrip.Statement .reset := rfl
theorem RoundTrip.bufRd : RoundTrip.Statement .bufRd := rfl
theorem RoundTrip.bufWr : RoundTrip.Statement .bufWr := rfl
theorem RoundTrip.bufRelease : RoundTrip.Statement .bufRelease := rfl
theorem RoundTrip.csumInit : RoundTrip.Statement .csumInit := rfl
theorem RoundTrip.csumAdd : RoundTrip.Statement .csumAdd := rfl
theorem RoundTrip.csumAddw : RoundTrip.Statement .csumAddw := rfl
theorem RoundTrip.csumFinal : RoundTrip.Statement .csumFinal := rfl
theorem RoundTrip.csum : RoundTrip.Statement .csum := rfl
theorem RoundTrip.arpAdd : RoundTrip.Statement .arpAdd := rfl
theorem RoundTrip.arpGet : RoundTrip.Statement .arpGet := rfl
theorem RoundTrip.arpResolve : RoundTrip.Statement .arpResolve := rfl
theorem RoundTrip.arpTick : RoundTrip.Statement .arpTick := rfl
theorem RoundTrip.arpStat : RoundTrip.Statement .arpStat := rfl
theorem RoundTrip.arpSlot : RoundTrip.Statement .arpSlot := rfl
theorem RoundTrip.classify : RoundTrip.Statement .classify := rfl
theorem RoundTrip.arpReq : RoundTrip.Statement .arpReq := rfl
theorem RoundTrip.ipTxHdr : RoundTrip.Statement .ipTxHdr := rfl
theorem RoundTrip.portOpen (t : Table) : RoundTrip.Statement (.portOpen t) := by cases t <;> rfl
theorem RoundTrip.portClose (t : Table) : RoundTrip.Statement (.portClose t) := by cases t <;> rfl
theorem RoundTrip.portFind (t : Table) : RoundTrip.Statement (.portFind t) := by cases t <;> rfl
theorem RoundTrip.sessAdd (t : Table) : RoundTrip.Statement (.sessAdd t) := by cases t <;> rfl
theorem RoundTrip.sessRemove (t : Table) : RoundTrip.Statement (.sessRemove t) := by cases t <;> rfl
theorem RoundTrip.sessGet (t : Table) : RoundTrip.Statement (.sessGet t) := by cases t <;> rfl
theorem RoundTrip.sessLookup (t : Table) : RoundTrip.Statement (.sessLookup t) := by cases t <;> rfl
theorem RoundTrip.tcpSet : RoundTrip.Statement .tcpSet := rfl
theorem RoundTrip.tcpGet : RoundTrip.Statement .tcpGet := rfl

end Sys2Proof.Laws
end

