-- ==== Sys2Proof/Laws/Registers.lean ====
section
/-! SUPPORT. The host's accesses (spec/30_encoding.md rule R80, spec/20_memory.md rules R62-R66): which register an address reaches,
and a step that is the host's turn. -/

namespace Sys2Proof.Machine

/-- The offsets from 0x50 on are reserved. -/
theorem Reg.ofOffset_reserved {off : Nat} (h : 0x50 ≤ off) : Reg.ofOffset off = .reserved := by
  unfold Reg.ofOffset
  split <;> first | omega | rfl

/-- The offset 4 alone reaches STATUS. -/
theorem Reg.ofOffset_eq_status {off : Nat} (h : Reg.ofOffset off = .status) : off = 4 := by
  unfold Reg.ofOffset at h
  split at h <;> first | rfl | cases h

/-- What an access inside the register block reaches. -/
theorem State.hostTarget_inside (s : State) {off : Nat} (h : off < 256) (size : Nat) :
    s.hostTarget (s.fixed.base + off) size =
      if hostAccessWf off size then .ok (Reg.ofOffset off) else .error .hostAccessNotAWord := by
  simp only [State.hostTarget, State.registerOffset]
  rw [if_pos (by omega)]
  simp only [Nat.add_sub_cancel_left]

/-- An aligned word access inside the register block reaches its register. -/
theorem State.hostTarget_word (s : State) {off : Nat} (h : off < 256) (h4 : off % 4 = 0) :
    s.hostTarget (s.fixed.base + off) 4 = .ok (Reg.ofOffset off) := by
  rw [s.hostTarget_inside h]
  simp [hostAccessWf, h4]

/-- An access that reaches a register is an aligned word inside the register block. -/
theorem State.hostTarget_eq_ok {s : State} {addr size : Nat} {r : Reg} (h : s.hostTarget addr size = .ok r) :
    ∃ off, addr = s.fixed.base + off ∧ off < 256 ∧ off % 4 = 0 ∧ size = 4 ∧ r = Reg.ofOffset off := by
  simp only [State.hostTarget, State.registerOffset] at h
  split at h
  · cases h
  · rename_i off hoff
    split at hoff
    · cases hoff
      split at h
      · rename_i hb hw
        cases h
        simp only [hostAccessWf, Bool.and_eq_true, beq_iff_eq] at hw
        exact ⟨addr - s.fixed.base, by omega, by omega, hw.2, hw.1, rfl⟩
      · cases h
    · cases hoff

/-- A step at the host's turn, for a word write inside the register block. -/
theorem step_hostWrite {s : State} {off : Nat} {v : Word} {rest : List Input} (h : off < 256) (h4 : off % 4 = 0)
    (hi : s.inputs = .host (.write (s.fixed.base + off) 4 v) :: rest) :
    step s = ({ s with inputs := rest } : State).hostWrite (Reg.ofOffset off) v := by
  have ht := State.hostTarget_word { s with inputs := rest } h h4
  simp only at ht
  simp only [step, nextTurn, hi, takeTurn, hostTurn, ht]

/-- A step at the host's turn, for a word read inside the register block. -/
theorem step_hostRead {s : State} {off : Nat} {rest : List Input} (h : off < 256) (h4 : off % 4 = 0)
    (hi : s.inputs = .host (.read (s.fixed.base + off) 4) :: rest) :
    step s = .next (({ s with inputs := rest } : State).hostRead (Reg.ofOffset off)) := by
  have ht := State.hostTarget_word { s with inputs := rest } h h4
  simp only at ht
  simp only [step, nextTurn, hi, takeTurn, hostTurn, ht]

/-- A host read changes the model's own `readData` and `freeReads` alone (R66). -/
theorem State.hostRead_frame (s : State) (r : Reg) :
    s.hostRead r = { s with readData := (s.hostRead r).readData, freeReads := (s.hostRead r).freeReads } := by
  simp only [State.hostRead]
  split <;> rfl

/-- A host write changes no result register, no table, no byte of BUF and no parameter (R66). -/
theorem State.regWrite_frame (s : State) (r : Reg) (v : Word) :
    s.regWrite r v = { s with
      cmd := (s.regWrite r v).cmd, busy := (s.regWrite r v).busy, ovr := (s.regWrite r v).ovr
      arg0 := (s.regWrite r v).arg0, arg1 := (s.regWrite r v).arg1
      arg2 := (s.regWrite r v).arg2, arg3 := (s.regWrite r v).arg3
      localMac := (s.regWrite r v).localMac, localIp := (s.regWrite r v).localIp
      netmask := (s.regWrite r v).netmask, gateway := (s.regWrite r v).gateway } := by
  cases r <;> simp only [State.regWrite] <;> first | rfl | (split <;> rfl)

end Sys2Proof.Machine
end

