-- ==== Sys2Proof/Laws/Step.lean ====
section
/-! SUPPORT. How a command ends and what one step can be (spec/60_exceptions.md rules R270-R272, spec/00_scope.md rule R15). -/

namespace Sys2Proof.Machine

/-- R272: what `complete` answers. -/
theorem complete_eq_next {c : ResultCode} {s t : State} (h : complete c s = .next t) :
    t = { s with rc := c, busy := false } := by
  cases h; rfl

/-- R271: what `raise` answers. -/
theorem raise_eq_next {c : ResultCode} {s t : State} (h : raise c s = .next t) : t = { s with rc := c, busy := false } := by
  cases h; rfl

/-- The block's turn is idle, runs the decoded command, or raises ILLEGAL. -/
theorem blockTurn_cases {s t : State} (h : blockTurn s = .next t) :
    (s.busy = false ∧ t = s) ∨
    (s.busy = true ∧ ∃ i, decode s.cmd = .ok i ∧ exec i s = .next t) ∨
    (s.busy = true ∧ (∃ e, decode s.cmd = .error e) ∧ t = { s with rc := .illegal, busy := false }) := by
  simp only [blockTurn, State.pending] at h
  cases hb : s.busy with
  | false => rw [hb] at h; cases h; exact .inl ⟨rfl, rfl⟩
  | true =>
    rw [hb] at h
    simp only [if_true, runCommand] at h
    cases hd : decode s.cmd with
    | ok i => rw [hd] at h; exact .inr (.inl ⟨rfl, i, rfl, h⟩)
    | error e => rw [hd] at h; cases h; exact .inr (.inr ⟨rfl, ⟨e, rfl⟩, rfl⟩)

/-- A host access that does not stop reads a register or writes one. -/
theorem hostTurn_cases {a : HostAccess} {s t : State} (h : hostTurn a s = .next t) :
    (∃ off, off < 256 ∧ off % 4 = 0 ∧ a = .read (s.fixed.base + off) 4 ∧ t = s.hostRead (Reg.ofOffset off)) ∨
    (∃ off v, off < 256 ∧ off % 4 = 0 ∧ a = .write (s.fixed.base + off) 4 v ∧
      (s.busy && (Reg.ofOffset off).lockedWhileBusy) = false ∧ t = s.regWrite (Reg.ofOffset off) v) := by
  cases a with
  | read addr size =>
    simp only [hostTurn] at h
    cases ht : s.hostTarget addr size with
    | error e => rw [ht] at h; cases h
    | ok r =>
      rw [ht] at h
      obtain ⟨off, rfl, h1, h2, rfl, rfl⟩ := State.hostTarget_eq_ok ht
      cases h
      exact .inl ⟨off, h1, h2, rfl, rfl⟩
  | write addr size v =>
    simp only [hostTurn] at h
    cases ht : s.hostTarget addr size with
    | error e => rw [ht] at h; cases h
    | ok r =>
      rw [ht] at h
      obtain ⟨off, rfl, h1, h2, rfl, rfl⟩ := State.hostTarget_eq_ok ht
      simp only [State.hostWrite] at h
      cases hl : s.busy && (Reg.ofOffset off).lockedWhileBusy with
      | true => rw [hl] at h; cases h
      | false => rw [hl] at h; cases h; exact .inr ⟨off, v, h1, h2, rfl, hl, rfl⟩

/-- All that one step can be: the block's turn, the host's turn, or a power cycle. -/
theorem step_cases {s t : State} (h : step s = .next t) :
    (s.inputs = [] ∧ blockTurn s = .next t) ∨
    (∃ rest, s.inputs = .blockRuns :: rest ∧ blockTurn { s with inputs := rest } = .next t) ∨
    (∃ a rest, s.inputs = .host a :: rest ∧ hostTurn a { s with inputs := rest } = .next t) ∨
    (∃ rest, s.inputs = .powerCycle :: rest ∧ t = ({ s with inputs := rest } : State).powerCycle) := by
  simp only [step, nextTurn] at h
  cases hi : s.inputs with
  | nil => rw [hi] at h; exact .inl ⟨rfl, h⟩
  | cons i rest =>
    rw [hi] at h
    cases i with
    | blockRuns => exact .inr (.inl ⟨rest, rfl, h⟩)
    | host a => exact .inr (.inr (.inl ⟨a, rest, rfl, h⟩))
    | powerCycle => cases h; exact .inr (.inr (.inr ⟨rest, rfl, rfl⟩))

end Sys2Proof.Machine
end

