-- ==== Sys2Proof/Tests/Slice0.lean ====
section
/-! SUPPORT. Tests. Expected values come from spec/95_test_vectors.md (the row is named) and from the encodings of
spec/30_encoding.md rules R81-R83; each `test_witness_…` meets the hypotheses of the obligation it names. -/

namespace Sys2Proof.Tests

open Sys2Proof.Machine

/-! ### Well-formedness -/

/-- R83: one ill-formed word for each check, at its boundary, and the parameters and accesses out of range. -/
theorem test_wf_refuses_reserved_bit : reservedClear 0x00000200#32 = false := by decide
theorem test_wf_refuses_top_bit : reservedClear 0x80000000#32 = false := by decide
theorem test_wf_refuses_unassigned_op : opAssigned 0x00000002#32 = false := by decide
theorem test_wf_refuses_last_op : opAssigned 0x000000FF#32 = false := by decide
theorem test_wf_refuses_t_on_nop : tableBitAllowed 0x00000100#32 = false := by decide
theorem test_wf_refuses_tcp_set_without_t : tableBitAllowed 0x00000057#32 = false := by decide
theorem test_wf_accepts_words : commandWordWf 0x00000124#32 = false ∧ commandWordWf 0x00000024#32 = true ∧
    commandWordWf 0x00000156#32 = true ∧ commandWordWf 0x00000158#32 = true := by decide
theorem test_wf_refuses_arp_ttl_max_0 : Config.Fixed.inRange ⟨0#16, 64#8, 1518, 0⟩ = false := by decide
theorem test_wf_refuses_ip_ttl_0 : Config.Fixed.inRange ⟨30#16, 0#8, 1518, 0⟩ = false := by decide
theorem test_wf_refuses_buf_41 : Config.Fixed.inRange ⟨30#16, 64#8, 41, 0⟩ = false := by decide
theorem test_wf_refuses_buf_65536 : Config.Fixed.inRange ⟨30#16, 64#8, 65536, 0⟩ = false := by decide
theorem test_wf_refuses_capacity_0_and_255 : capacityInRange 0 = false ∧ capacityInRange 255 = false := by decide
theorem test_wf_refuses_each_capacity :
    Config.Params.inRange ⟨⟨30#16, 64#8, 1518, 0⟩, 0, 4, 4, 4, 4⟩ = false ∧
    Config.Params.inRange ⟨⟨30#16, 64#8, 1518, 0⟩, 5, 0, 4, 4, 4⟩ = false ∧
    Config.Params.inRange ⟨⟨30#16, 64#8, 1518, 0⟩, 5, 4, 255, 4, 4⟩ = false ∧
    Config.Params.inRange ⟨⟨30#16, 64#8, 1518, 0⟩, 5, 4, 4, 255, 4⟩ = false ∧
    Config.Params.inRange ⟨⟨30#16, 64#8, 1518, 0⟩, 5, 4, 4, 4, 0⟩ = false := by decide
theorem test_wf_refuses_halfword_access : hostAccessWf 0 2 = false ∧ hostAccessWf 2 4 = false ∧
    hostAccessWf 252 4 = true := by decide

/-! ### Decoding: each command's word written out (R82) -/

theorem test_decode_control : decode 0b00000000000000000000000000000000#32 = .ok .nop ∧
    decode 0b00000000000000000000000000000001#32 = .ok .reset := ⟨rfl, rfl⟩
theorem test_decode_buffer : decode 0b00000000000000000000000000010000#32 = .ok .bufRd ∧
    decode 0b00000000000000000000000000010001#32 = .ok .bufWr ∧
    decode 0b00000000000000000000000000010010#32 = .ok .bufRelease := ⟨rfl, rfl, rfl⟩
theorem test_decode_checksum : decode 0b00000000000000000000000000100000#32 = .ok .csumInit ∧
    decode 0b00000000000000000000000000100001#32 = .ok .csumAdd ∧
    decode 0b00000000000000000000000000100010#32 = .ok .csumAddw ∧
    decode 0b00000000000000000000000000100011#32 = .ok .csumFinal ∧
    decode 0b00000000000000000000000000100100#32 = .ok .csum := ⟨rfl, rfl, rfl, rfl, rfl⟩
theorem test_decode_arp : decode 0b00000000000000000000000000110000#32 = .ok .arpAdd ∧
    decode 0b00000000000000000000000000110001#32 = .ok .arpGet ∧
    decode 0b00000000000000000000000000110010#32 = .ok .arpResolve ∧
    decode 0b00000000000000000000000000110011#32 = .ok .arpTick ∧
    decode 0b00000000000000000000000000110100#32 = .ok .arpStat ∧
    decode 0b00000000000000000000000000110101#32 = .ok .arpSlot := ⟨rfl, rfl, rfl, rfl, rfl, rfl⟩
theorem test_decode_dispatcher : decode 0b00000000000000000000000001000000#32 = .ok .classify ∧
    decode 0b00000000000000000000000001000001#32 = .ok .arpReq ∧
    decode 0b00000000000000000000000001000010#32 = .ok .ipTxHdr := ⟨rfl, rfl, rfl⟩
theorem test_decode_ports : decode 0b00000000000000000000000001010000#32 = .ok (.portOpen .udp) ∧
    decode 0b00000000000000000000000101010000#32 = .ok (.portOpen .tcp) ∧
    decode 0b00000000000000000000000001010001#32 = .ok (.portClose .udp) ∧
    decode 0b00000000000000000000000101010001#32 = .ok (.portClose .tcp) ∧
    decode 0b00000000000000000000000001010010#32 = .ok (.portFind .udp) ∧
    decode 0b00000000000000000000000101010010#32 = .ok (.portFind .tcp) := ⟨rfl, rfl, rfl, rfl, rfl, rfl⟩
theorem test_decode_sessions : decode 0b00000000000000000000000001010011#32 = .ok (.sessAdd .udp) ∧
    decode 0b00000000000000000000000101010011#32 = .ok (.sessAdd .tcp) ∧
    decode 0b00000000000000000000000001010100#32 = .ok (.sessRemove .udp) ∧
    decode 0b00000000000000000000000101010100#32 = .ok (.sessRemove .tcp) ∧
    decode 0b00000000000000000000000001010101#32 = .ok (.sessGet .udp) ∧
    decode 0b00000000000000000000000101010101#32 = .ok (.sessGet .tcp) ∧
    decode 0b00000000000000000000000001010110#32 = .ok (.sessLookup .udp) ∧
    decode 0b00000000000000000000000101010110#32 = .ok (.sessLookup .tcp) := ⟨rfl, rfl, rfl, rfl, rfl, rfl, rfl, rfl⟩
theorem test_decode_tcp : decode 0b00000000000000000000000101010111#32 = .ok .tcpSet ∧
    decode 0b00000000000000000000000101011000#32 = .ok .tcpGet := ⟨rfl, rfl⟩
/-- R83, V1 rows 5-12: each ground. -/
theorem test_decode_rejects_by_name : decode 0x00000002#32 = .error .unassignedOp ∧
    decode 0x000000FF#32 = .error .unassignedOp ∧ decode 0x00000124#32 = .error .tableBit ∧
    decode 0x00000057#32 = .error .tableBit ∧ decode 0x00000258#32 = .error .reservedBits ∧
    decode 0x80000000#32 = .error .reservedBits := ⟨rfl, rfl, rfl, rfl, rfl, rfl⟩

/-! ### One step on a small state -/

/-- The state with these operands and the command word pending, run for the one step that executes it. -/
def ran (s : State) (w : Word) (a : List Word) : State :=
  match step { s.latch w with
    arg0 := a.getD 0 s.arg0, arg1 := a.getD 1 s.arg1, arg2 := a.getD 2 s.arg2, arg3 := a.getD 3 s.arg3 } with
  | .next t => t
  | .fault _ => s
  | .refused _ => s

/-- RC and the result registers. -/
def results (s : State) : ResultCode × Word × Word × Word × Word := (s.rc, s.res0, s.res1, s.res2, s.res3)

/-- The spec's CONF (95_test_vectors.md section 0), after reset. -/
def conf : State := { State.reset with
  localMac := 0x020000000001#48, localIp := 0xC0A8010A#32, netmask := 0xFFFFFF00#32, gateway := 0xC0A80101#32 }

/-- CONF with the `n` bytes of `v` at BUF[0..]. -/
def framed (n v : Nat) : State := { conf with buf := (beBytes n v).zipIdx.map (fun p => (p.2, p.1)) }

/-- CONF with two live ARP slots, GW and PEER, the second at its last second. -/
def cached : State := { conf with
  arp := [⟨0xC0A80101#32, 0x001122334455#48, 30#16⟩, ⟨0xC0A80114#32, 0x020000000002#48, 1#16⟩, ⟨0#32, 0#48, 0#16⟩] }

/-- CONF with a UDP session in slot 0 of 2 that closes its port, and UDP port 5000 open in slot 0 of 2. -/
def socketed : State := { conf with
  udp := [⟨0#8, 0xC0A80114#32, 5000#16, 6000#16, 3000#32, true⟩, Session.free 2]
  appUdp := [⟨5000#16, 1000#32, 7#32⟩, App.empty] }

/-- CONF with a TCP session in slot 1 of 2, and TCP port 80 open in slot 0 of 1. -/
def connected : State := { conf with
  tcp := [TcpSession.free 2, ⟨⟨1#8, 0xC0A80114#32, 49152#16, 80#16, 5000#32, true⟩, 7#32, 8#32, .connected, true, false⟩]
  appTcp := [⟨80#16, 5000#32, 0x11#32⟩] }

/-- F_UDP. -/
def fUdp : Nat := 0x020000000001_020000000002_0800_45000020000040004011b75e_c0a80114_c0a8010a_17701388000c0000_6869210a

/-- V1 row 2. -/
theorem test_nop_clears_rc : (ran { conf with rc := .miss } 0x00#32 []).status = 0#32 := by decide
/-- V1 rows 4 and 17. -/
theorem test_reset_empties_cache_and_clears_ovr : (ran { cached with ovr := true } 0x01#32 []).arp.all (· == ArpSlot.empty) = true ∧
    (ran { cached with ovr := true } 0x01#32 []).status = 0#32 := by decide
/-- R121, R302 item 2: after RESET a UDP frame to our old address is dropped (its IP is not 0), a broadcast one is reported, and,
literally, one to IP 0 is (log 20). The frames are F_UDP, F_UDP sent to the broadcast MAC, and F_UDP to IP 0. -/
theorem test_reset_then_classify :
    (ran (ran (framed 46 fUdp) 0x01#32 []) 0x40#32 [46#32]).own = .free ∧
    (ran (ran (framed 46 (fUdp + 0xFDFFFFFFFFFE * 2 ^ 160 * 2 ^ 160)) 0x01#32 []) 0x40#32 [46#32]).res0 = 0x05400004#32 ∧
    (ran (ran (framed 46 (fUdp - 0xC0A8010A * 2 ^ 96)) 0x01#32 []) 0x40#32 [46#32]).own = .rx := by decide
/-- V1 row 13. -/
theorem test_illegal_word_keeps_own : (ran { conf with own := .rx } 0x02#32 []).status = 0x190#32 := by decide
/-- V1 row 14. -/
theorem test_lost_command_sets_ovr :
    step { conf.latch 0x12#32 with inputs := [.host (.write 0 4 0x99#32)] } =
      .next { conf.latch 0x12#32 with ovr := true } := rfl
/-- V2 row 3. -/
theorem test_buf_rd_unaligned : results (ran (framed 4 0x12345678) 0x10#32 [1#32, 2#32]) =
    (.ok, 0x3456#32, 0#32, 0#32, 0#32) := by decide
/-- V2 row 8. -/
theorem test_buf_rd_past_the_end : (ran conf 0x10#32 [1515#32, 4#32]).rc = .badOperand := by decide
/-- V2 row 5. -/
theorem test_buf_wr_ignores_high_bits : (ran conf 0x11#32 [100#32, 2#32, 0x12345678#32]).buf = [(100, 0x56#8), (101, 0x78#8)] := by
  decide
/-- V2 row 11. -/
theorem test_buf_wr_width_0 : (ran conf 0x11#32 [0#32, 0#32, 5#32]).rc = .badOperand := by decide
/-- V2 row 12. -/
theorem test_buf_release : (ran { conf with own := .rx } 0x12#32 []).status = 0#32 := by decide
/-- V3 row 10. -/
theorem test_csum_init : (ran conf 0x20#32 [0x1FFFF#32]).csumAcc = 0x1FFFF#32 := by decide
/-- V3 row 15, first piece: an odd trailing byte is a high byte. -/
theorem test_csum_add_odd : (ran (framed 4 0x01020304) 0x21#32 [0#32, 3#32]).csumAcc = 0x402#32 := by decide
/-- V3 row 21. -/
theorem test_csum_add_past_the_end : (ran conf 0x21#32 [1519#32, 0#32]).rc = .badOperand := by decide
/-- V3 row 14. -/
theorem test_csum_addw_end_around : (ran { conf with csumAcc := 0xFFFFFFFF#32 } 0x22#32 [0x1234FFFF#32]).csumAcc = 0xFFFF#32 := by
  decide
/-- V3 rows 10 and 13. -/
theorem test_csum_final : (ran { conf with csumAcc := 0x1FFFF#32 } 0x23#32 []).res0 = 0xFFFE#32 ∧
    (ran { conf with csumAcc := 0xFFFF#32 } 0x23#32 []).res0 = 0#32 := by decide
/-- V3 row 7. -/
theorem test_csum_ip_header :
    (ran (framed 20 0x45000073000040004011_0000_c0a80001c0a800c7) 0x24#32 [0#32, 20#32, 0#32]).csumAcc = 0x2479C#32 ∧
    (ran (framed 20 0x45000073000040004011_0000_c0a80001c0a800c7) 0x24#32 [0#32, 20#32, 0#32]).res0 = 0xB861#32 := by decide
/-- V3 row 9. -/
theorem test_csum_start_wraps : (ran (framed 2 0x0001) 0x24#32 [0#32, 2#32, 0xFFFFFFFF#32]).csumAcc = 1#32 := by decide
/-- V4 rows 1 and 6. -/
theorem test_arp_add_inserts : (ran conf 0x30#32 [0xC0A80107#32, 0x02AABBCC#32, 0xDDEE#32]).arp.head? =
    some ⟨0xC0A80107#32, 0x02AABBCCDDEE#48, 30#16⟩ := by decide
theorem test_arp_add_refreshes_keeping_mac : (ran cached 0x30#32 [0xC0A80114#32, 0x02FFFFFF#32, 0xFFFF#32]).arp =
    [⟨0xC0A80101#32, 0x001122334455#48, 30#16⟩, ⟨0xC0A80114#32, 0x020000000002#48, 30#16⟩, ⟨0#32, 0#48, 0#16⟩] := by decide
/-- V4 rows 2 and 4 (the cache here has 3 slots). -/
theorem test_arp_get : results (ran cached 0x31#32 [0xC0A80114#32]) = (.ok, 1#32, 0x02000000#32, 2#32, 1#32) ∧
    results (ran cached 0x31#32 [0#32]) = (.miss, 3#32, 0#32, 0#32, 0#32) := by decide
/-- V4 rows 15 and 16. -/
theorem test_arp_resolve_redirects : results (ran cached 0x32#32 [0x08080808#32]) =
    (.ok, 1#32, 0x00112233#32, 0x4455#32, 0xC0A80101#32) := by decide
theorem test_arp_resolve_broadcast : results (ran cached 0x32#32 [0xFFFFFFFF#32]) =
    (.ok, 2#32, 0xFFFFFFFF#32, 0xFFFF#32, 0xFFFFFFFF#32) := by decide
/-- V4 row 10, W3 step 4. -/
theorem test_arp_tick : (ran cached 0x33#32 []).arp =
    [⟨0xC0A80101#32, 0x001122334455#48, 29#16⟩, ⟨0#32, 0#48, 0#16⟩, ⟨0#32, 0#48, 0#16⟩] ∧ (ran cached 0x33#32 []).res0 = 1#32 := by
  decide
/-- V4 rows 9 and 11, W3 step 2. -/
theorem test_arp_stat : results (ran cached 0x34#32 []) = (.ok, 0#32, 2#32, 0#32, 0#32) ∧
    results (ran { conf with arp := [⟨1#32, 2#48, 3#16⟩] } 0x34#32 []) = (.ok, 1#32, 1#32, 0#32, 0#32) := by decide
/-- V4 rows 12 and 13. -/
theorem test_arp_slot : (ran conf 0x35#32 [4#32]).rc = .ok ∧ (ran conf 0x35#32 [5#32]).rc = .badOperand := by decide

/-- F_REQ. -/
def fReq : Nat := 0xffffffffffff_020000000002_08060001080006040001_020000000002_c0a80114_000000000000_c0a8010a
/-- F_REP. -/
def fRep : Nat := 0x020000000001_020000000002_08060001080006040002_020000000002_c0a80114_020000000001_c0a8010a
/-- F_ICMP. -/
def fIcmp : Nat := 0x020000000001_020000000002_0800_4500001c000040004001b772_c0a80114_c0a8010a_0800f7ff00000000
/-- F_SA. -/
def fSa : Nat := 0x020000000001_020000000002_0800_45000028000040004006b761_c0a80114_c0a8010a_0050c000000007d0000003e95012040000000000

/-- V5 row 1. -/
theorem test_classify_answers_arp : results (ran (framed 42 fReq) 0x40#32 [42#32]) = (.ok, 0x00400001#32, 0xC0A80114#32, 0#32, 42#32) ∧
    beValue ((ran (framed 42 fReq) 0x40#32 [42#32]).bufBytes 0 42) =
      0x020000000002_020000000001_08060001080006040002_020000000001_c0a8010a_020000000002_c0a80114 := by decide +kernel
/-- V5 row 14. -/
theorem test_classify_udp_session :
    results (ran { framed 46 fUdp with udp := socketed.udp, appUdp := socketed.appUdp } 0x40#32 [46#32]) =
      (.ok, 0x05000014#32, 0xC0A80114#32, 0x17701388#32, 0x002A0004#32) := by decide
/-- V6 row 9. -/
theorem test_arp_req : beValue ((ran conf 0x41#32 [0xC0A80114#32]).bufBytes 0 42) =
    0xffffffffffff_020000000001_08060001080006040001_020000000001_c0a8010a_000000000000_c0a80114 ∧
    (ran conf 0x41#32 [0xC0A80114#32]).status = 0x200#32 := by decide
/-- V6 row 3. -/
theorem test_ip_tx_hdr :
    beValue ((ran { cached with ipId := 0xFFFF#16 } 0x42#32 [0x08080808#32, 0x00140006#32]).bufBytes 0 34) =
      0x001122334455_020000000001_0800_45000028ffff40004006690e_c0a8010a_08080808 ∧
    (ran { cached with ipId := 0xFFFF#16 } 0x42#32 [0x08080808#32, 0x00140006#32]).ipId = 0#16 := by decide
/-- V7 rows 2 and 10 (the table here has 2 slots). -/
theorem test_port_open : results (ran socketed 0x50#32 [5000#32, 2000#32, 9#32]) = (.existing, 0#32, 0#32, 0#32, 0#32) ∧
    results (ran connected 0x150#32 [81#32, 0#32, 0#32]) = (.full, 1#32, 0#32, 0#32, 0#32) := by decide
/-- V7 row 5. -/
theorem test_port_close : (ran socketed 0x51#32 [5000#32]).appUdp = [App.empty, App.empty] := by decide
/-- V7 rows 3 and 13. -/
theorem test_port_find : results (ran socketed 0x52#32 [5000#32]) = (.ok, 0#32, 0x3E8#32, 7#32, 0#32) ∧
    (ran socketed 0x152#32 [0#32]).rc = .badOperand := by decide
/-- V7 rows 15 and 19. -/
theorem test_sess_add : results (ran socketed 0x53#32 [0xC0A80114#32, 0x13881770#32, 3000#32, 0#32]) =
      (.existing, 2#32, 0#32, 0#32, 0#32) ∧
    (ran socketed 0x53#32 [0xC0A80114#32, 0x13881771#32, 3000#32, 0#32]).udp =
      socketed.udp.set 1 ⟨1#8, 0xC0A80114#32, 5000#16, 6001#16, 3000#32, false⟩ := by decide
/-- V7 row 21. -/
theorem test_sess_remove : (ran socketed 0x54#32 [0#32]).res0 = 1#32 ∧ (ran socketed 0x54#32 [0#32]).appUdp.head? = some App.empty ∧
    ((ran socketed 0x54#32 [0#32]).udp.map (·.socket)) = [2#8, 2#8] := by decide
/-- V7 rows 16 and 26. -/
theorem test_sess_get : results (ran socketed 0x55#32 [0#32]) = (.ok, 0xC0A80114#32, 0x13881770#32, 0xBB8#32, 1#32) ∧
    results (ran socketed 0x55#32 [99#32]) = (.miss, 0#32, 0#32, 0#32, 0#32) := by decide
/-- V7 rows 17 and 18. -/
theorem test_sess_lookup : results (ran socketed 0x56#32 [0xC0A80114#32, 0x13881770#32]) = (.ok, 0#32, 0#32, 0#32, 0#32) ∧
    results (ran socketed 0x156#32 [0xC0A80114#32, 0x13881770#32]) = (.miss, 4#32, 0#32, 0#32, 0#32) := by decide
/-- V7 row 30 (the session is in slot 1 here). -/
theorem test_tcp_set : ((ran connected 0x157#32 [1#32, 0xFFFFFFFF#32, 0#32, 0x34#32]).tcp.getD 1 (TcpSession.free 2)) =
    ⟨⟨1#8, 0xC0A80114#32, 49152#16, 80#16, 5000#32, true⟩, 0xFFFFFFFF#32, 0#32, .terminationIncoming, true, true⟩ := by decide
theorem test_tcp_get : results (ran connected 0x158#32 [1#32]) = (.ok, 7#32, 8#32, 0x12#32, 0#32) := by decide

/-- V2 row 2 as an assembler statement `BUF_WR 0, 4, 0x12345678` run by the host. -/
theorem test_assembler_statement :
    (match Host.Core.run Sys2Proof.core 6 { conf with inputs := asmCommand 0 .bufWr [0#32, 4#32, 0x12345678#32] } with
      | .next t => (t.buf, t.readData)
      | _ => ([], none)) = ([(0, 0x12#8), (1, 0x34#8), (2, 0x56#8), (3, 0x78#8)], some 0#32) := by decide

/-- A word placed where the next step fetches it runs first after reset: TCP_GET of an empty table is MISS (V7 row 26's rule). -/
theorem test_fetched_word_runs : decodeTableWord 32 0x158 = some .tcpGet ∧ decodeTableWord 32 0x58 = none ∧
    (match step (State.reset.withFetchWord 32 0x158) with
      | .next t => some t.rc
      | _ => none) = some .miss := by decide

/-- The power-on memory is in its canonical form. -/
theorem test_reset_memory_wf : Memory.wf State.reset.buf = true := by decide

/-! ### Witnesses: the hypotheses of each obligation, met by concrete states, clause by clause -/

theorem test_witness_ReservedWordsRaiseIllegal : (conf.latch 0x200#32).busy = true ∧ commandWordWf (conf.latch 0x200#32).cmd = false ∧
    commandWordWf (conf.latch 0x59#32).cmd = false ∧ (conf.latch 0x200#32).inputs = [] ∧
    ({ conf.latch 0x200#32 with inputs := [.blockRuns] } : State).inputs = .blockRuns :: [] := by decide

theorem test_witness_StepRunsTheDecodedCommand : (conf.latch 0x158#32).busy = true ∧
    decode (conf.latch 0x158#32).cmd = .ok .tcpGet ∧ (conf.latch 0x158#32).inputs = [] ∧
    ({ conf.latch 0x158#32 with inputs := [.blockRuns] } : State).inputs = .blockRuns :: [] := by
  refine ⟨rfl, rfl, rfl, rfl⟩

/-- The lost write, and each of the three ways OVR returns to 0. -/
theorem test_witness_OverrunFlagLastsUntilCleared :
    (∃ s : State, s.inputs = .host (.write s.fixed.base 4 0x99#32) :: [] ∧ s.busy = true) ∧
    (∃ s t : State, s.ovr = true ∧ step s = .next t ∧ t.ovr = false ∧
      s.inputs = .host (.write (s.fixed.base + 4) 4 0x10000#32) :: []) ∧
    (∃ s t : State, s.ovr = true ∧ step s = .next t ∧ t.ovr = false ∧ s.busy = true ∧ decode s.cmd = .ok .reset ∧ s.inputs = []) ∧
    (∃ s t : State, s.ovr = true ∧ step s = .next t ∧ t.ovr = false ∧ s.inputs = .powerCycle :: []) :=
  ⟨⟨{ conf.latch 0#32 with inputs := [.host (.write 0 4 0x99#32)] }, rfl, rfl⟩,
    ⟨{ conf with ovr := true, inputs := [.host (.write 4 4 0x10000#32)] }, _, rfl, rfl, rfl, rfl⟩,
    ⟨{ conf.latch 1#32 with ovr := true }, _, rfl, rfl, rfl, rfl, rfl, rfl⟩,
    ⟨{ conf with ovr := true, inputs := [.powerCycle] }, _, rfl, rfl, rfl, rfl⟩⟩

theorem test_witness_StatusRegisterBehaves :
    (∃ s : State, s.inputs = .host (.write (s.fixed.base + 4) 4 0x10000#32) :: []) ∧
    (∃ t, exec .reset conf = .next t) ∧ ∃ t, exec .nop conf = .next t :=
  ⟨⟨{ conf with inputs := [.host (.write 4 4 0x10000#32)] }, rfl⟩, ⟨_, rfl⟩, ⟨_, rfl⟩⟩

/-- The first and the last locked register; a misaligned and a narrow access, a read and a write. -/
theorem test_witness_HostAccessesOutsideTheContractStop :
    (∃ s : State, 0x08 ∈ [0x08, 0x0C, 0x10, 0x14, 0x28, 0x2C, 0x30, 0x34, 0x38] ∧ s.busy = true ∧
      s.inputs = .host (.write (s.fixed.base + 0x08) 4 1#32) :: []) ∧
    (∃ s : State, 0x38 ∈ [0x08, 0x0C, 0x10, 0x14, 0x28, 0x2C, 0x30, 0x34, 0x38] ∧ s.busy = true ∧
      s.inputs = .host (.write (s.fixed.base + 0x38) 4 1#32) :: []) ∧
    (∃ s : State, 255 < 256 ∧ 255 % 4 ≠ 0 ∧ s.inputs = .host (.read (s.fixed.base + 255) 4) :: []) ∧
    ∃ s : State, 0 < 256 ∧ 2 ≠ 4 ∧ s.inputs = .host (.write (s.fixed.base + 0) 2 1#32) :: [] :=
  ⟨⟨{ conf.latch 0#32 with inputs := [.host (.write 0x08 4 1#32)] }, by decide, rfl, rfl⟩,
    ⟨{ conf.latch 0#32 with inputs := [.host (.write 0x38 4 1#32)] }, by decide, rfl, rfl⟩,
    ⟨{ conf with inputs := [.host (.read 255 4)] }, by decide, by decide, rfl⟩,
    ⟨{ conf with inputs := [.host (.write 0 2 1#32)] }, by decide, by decide, rfl⟩⟩

/-- A free read while BUSY; a settled read while BUSY; RES0 while not BUSY; the last reserved offset. -/
theorem test_witness_HostReadReturnsTheMappedRegister :
    (∃ s : State, s.busy = true ∧ 0x40 ∈ [0x18, 0x1C, 0x20, 0x24, 0x3C, 0x40] ∧
      s.inputs = .host (.read (s.fixed.base + 0x40) 4) :: []) ∧
    (∃ s : State, s.busy = true ∧ 0x44 ∉ [0x18, 0x1C, 0x20, 0x24, 0x3C, 0x40] ∧
      s.inputs = .host (.read (s.fixed.base + 0x44) 4) :: []) ∧
    (∃ s : State, s.busy = false ∧ s.inputs = .host (.read (s.fixed.base + 0x18) 4) :: []) ∧
    ∃ s : State, 0x50 ≤ 0xFC ∧ 0xFC < 0x100 ∧ 0xFC % 4 = 0 ∧ s.busy = false ∧
      s.inputs = .host (.read (s.fixed.base + 0xFC) 4) :: [] :=
  ⟨⟨{ conf.latch 0#32 with inputs := [.host (.read 0x40 4)] }, rfl, by decide, rfl⟩,
    ⟨{ conf.latch 0#32 with inputs := [.host (.read 0x44 4)] }, rfl, by decide, rfl⟩,
    ⟨{ conf with inputs := [.host (.read 0x18 4)] }, rfl, rfl⟩,
    ⟨{ conf with inputs := [.host (.read 0xFC 4)] }, by decide, by decide, by decide, rfl, rfl⟩⟩

theorem test_witness_HostWriteStoresStartsOrIsIgnored :
    (∃ s u : State, (0x38, u) ∈ [(0x38, { s with gateway := 7#32 })] ∧ s.busy = false ∧
      s.inputs = .host (.write (s.fixed.base + 0x38) 4 7#32) :: []) ∧
    (∃ s u : State, (0x00, u) ∈ [(0x00, { s with cmd := 7#32, busy := true })] ∧ s.busy = false ∧
      s.inputs = .host (.write (s.fixed.base + 0x00) 4 7#32) :: []) ∧
    (∃ s : State, 0x18 ∈ [0x18, 0x1C, 0x20, 0x24, 0x3C, 0x40, 0x44, 0x48, 0x4C] ∧ s.busy = true ∧
      s.inputs = .host (.write (s.fixed.base + 0x18) 4 7#32) :: []) ∧
    ∃ s : State, 0x50 ≤ 0x50 ∧ 0x50 < 0x100 ∧ 0x50 % 4 = 0 ∧ s.inputs = .host (.write (s.fixed.base + 0x50) 4 7#32) :: [] :=
  ⟨⟨{ conf with inputs := [.host (.write 0x38 4 7#32)] }, _, .head _, rfl, rfl⟩,
    ⟨{ conf with inputs := [.host (.write 0x00 4 7#32)] }, _, .head _, rfl, rfl⟩,
    ⟨{ conf.latch 0#32 with inputs := [.host (.write 0x18 4 7#32)] }, by decide, rfl, rfl⟩,
    ⟨{ conf with inputs := [.host (.write 0x50 4 7#32)] }, by decide, by decide, by decide, rfl⟩⟩

/-- With four operands, and with none. -/
theorem test_witness_CommandStatementRunsTheCommand :
    (∃ s : State, [1#32, 2#32, 3#32, 4#32].length ≤ 4 ∧ s.busy = false ∧
      s.inputs = asmCommand s.fixed.base (.sessAdd .udp) [1#32, 2#32, 3#32, 4#32]) ∧
    ∃ s : State, s.busy = false ∧ s.inputs = asmCommand s.fixed.base .nop [] :=
  ⟨⟨{ conf with inputs := asmCommand 0 (.sessAdd .udp) [1#32, 2#32, 3#32, 4#32] }, by decide, rfl, rfl⟩,
    ⟨{ conf with inputs := asmCommand 0 .nop [] }, rfl, rfl⟩⟩

theorem test_witness_ErrorCodeMeansNothingElseChanged :
    (∃ t, runCommand 0x10#32 conf = .next t ∧ t.rc = .badOperand) ∧ (∃ t, runCommand 0x13#32 conf = .next t ∧ t.rc = .illegal) ∧
    ∃ t, runCommand 0x41#32 { conf with own := .tx } = .next t ∧ t.rc = .owned := ⟨⟨_, rfl, rfl⟩, ⟨_, rfl, rfl⟩, ⟨_, rfl, rfl⟩⟩

theorem test_witness_UnsuccessfulOutcomeChangesNoTable :
    (∃ t, exec .arpGet conf = .next t ∧ t.rc = .miss) ∧
    (∃ t, exec .arpAdd { conf with arp := [⟨1#32, 2#48, 3#16⟩], arg0 := 5#32 } = .next t ∧ t.rc = .full) ∧
    ∃ t, exec (.portOpen .udp) { socketed with arg0 := 5000#32 } = .next t ∧ t.rc = .existing :=
  ⟨⟨_, rfl, rfl⟩, ⟨_, rfl, rfl⟩, ⟨_, rfl, rfl⟩⟩

theorem test_witness_OnlyNamedCommandsWriteEachRegister : Instr.ipTxHdr ≠ .reset ∧ ∃ t, exec .ipTxHdr conf = .next t ∧ t.own = .tx :=
  ⟨by decide, _, rfl, rfl⟩

theorem test_witness_OnlyNamedCommandsWriteTablesAndBuffer : ∃ t, exec .arpReq conf = .next t ∧ t.own = .tx := ⟨_, rfl, rfl⟩

/-- A state with tables of one slot, each in use, and a command pending. -/
def tiny : State := { conf.latch 0x54#32 with
  arp := [⟨0xC0A80114#32, 0x020000000002#48, 30#16⟩]
  udp := [⟨0#8, 1#32, 2#16, 3#16, 4#32, true⟩]
  tcp := [⟨⟨0#8, 1#32, 2#16, 3#16, 4#32, true⟩, 7#32, 8#32, .connected, true, false⟩]
  appUdp := [⟨2#16, 3#32, 4#32⟩], appTcp := [⟨2#16, 3#32, 4#32⟩], buf := [(5, 6#8)] }

theorem tiny_inUse (t : Table) (i : Nat) (h : tiny.inUse t i = true) : i = 0 := by
  have := ((State.inUse_iff tiny t i).1 h).1
  cases t <;> exact Nat.lt_one_iff.1 this

theorem tiny_inv : tiny.Inv where
  fixedInRange := rfl
  arpCapacity := rfl
  sessCapacity t := by cases t <;> rfl
  appCapacity t := by cases t <;> rfl
  arpUnique i j hi hj _ _ := (Nat.lt_one_iff.1 hi).trans (Nat.lt_one_iff.1 hj).symm
  arpLiveTtl i hi _ := by cases Nat.lt_one_iff.1 hi; decide
  arpEmptyClear i hi h := by cases Nat.lt_one_iff.1 hi; exact absurd h (by decide)
  sessUnique t i j hi hj _ := (tiny_inUse t i hi).trans (tiny_inUse t j hj).symm
  appUnique t i j hi hj _ _ := by
    cases t <;> exact (Nat.lt_one_iff.1 hi).trans (Nat.lt_one_iff.1 hj).symm
  bufCanonical := rfl
  bufBounded c hc := by cases List.mem_singleton.1 hc; decide

theorem test_witness_StepKeepsInvariant : ∃ s t : State, s.Inv ∧ step s = .next t ∧ s.busy = true ∧ t.rc = .ok :=
  ⟨tiny, _, tiny_inv, rfl, rfl, rfl⟩

/-- The lowest and the highest parameters. -/
theorem test_witness_ResetMeetsInvariant : Config.Params.inRange ⟨⟨1#16, 1#8, 42, 0⟩, 1, 1, 1, 1, 1⟩ = true ∧
    Config.Params.inRange ⟨⟨65535#16, 255#8, 65535, 0⟩, 254, 254, 254, 254, 254⟩ = true := by decide

theorem test_witness_StepKeepsParametersAndCapacities : ∃ s t : State, step s = .next t ∧ s.busy = true := ⟨tiny, _, rfl, rfl⟩

/-- The last slot of each table. -/
theorem test_witness_PowerOnResetValues : 4 < State.reset.nArp ∧ 3 < State.reset.nSess .udp ∧ 3 < State.reset.nSess .tcp ∧
    3 < State.reset.nApp .udp ∧ 3 < State.reset.nApp .tcp := by decide

theorem test_witness_PowerCycleDiffersFromResetOnlyInBuf : ∃ s : State, s.inputs = .powerCycle :: [] :=
  ⟨{ tiny with inputs := [.powerCycle] }, rfl⟩

theorem test_witness_NopOnlyReportsOk : (0#32).toNat % 2 ^ 8 = 0 ∧ (0x100#32).toNat % 2 ^ 8 = 0 ∧ 0x100#32 ≠ 0#32 := by decide

theorem test_witness_ResetCommandRestoresEverythingButBuf : 2 < cached.nArp ∧ 1 < socketed.nSess .udp ∧ 1 < connected.nSess .tcp ∧
    connected.nSess .tcp ≤ 254 ∧ 1 < socketed.nApp .udp ∧ 0 < connected.nApp .tcp := by decide

/-- CONF with operands. -/
def withArgs (a0 a1 a2 : Word) : State := { conf with arg0 := a0, arg1 := a1, arg2 := a2 }

/-- V2 rows 6, 8, 9, 7: a width of 3; one byte too far; the last byte, the last two, the last four. -/
theorem test_witness_BufRdReadsBigEndian :
    ((withArgs 0#32 3#32 0#32).arg1.toNat ≠ 1 ∧ (withArgs 0#32 3#32 0#32).arg1.toNat ≠ 2 ∧ (withArgs 0#32 3#32 0#32).arg1.toNat ≠ 4) ∧
    (withArgs 1515#32 4#32 0#32).fixed.bufSize < (withArgs 1515#32 4#32 0#32).arg0.toNat + (withArgs 1515#32 4#32 0#32).arg1.toNat ∧
    (withArgs 1517#32 1#32 0#32).arg0.toNat + (withArgs 1517#32 1#32 0#32).arg1.toNat ≤ (withArgs 1517#32 1#32 0#32).fixed.bufSize ∧
    (withArgs 1516#32 2#32 0#32).arg0.toNat + (withArgs 1516#32 2#32 0#32).arg1.toNat ≤ (withArgs 1516#32 2#32 0#32).fixed.bufSize ∧
    (withArgs 1514#32 4#32 0#32).arg0.toNat + (withArgs 1514#32 4#32 0#32).arg1.toNat ≤ (withArgs 1514#32 4#32 0#32).fixed.bufSize := by
  decide

theorem test_witness_BufWrWritesBigEndian :
    ((withArgs 0#32 0#32 5#32).arg1.toNat ≠ 1 ∧ (withArgs 0#32 0#32 5#32).arg1.toNat ≠ 2 ∧ (withArgs 0#32 0#32 5#32).arg1.toNat ≠ 4) ∧
    (withArgs 1515#32 4#32 0#32).fixed.bufSize < (withArgs 1515#32 4#32 0#32).arg0.toNat + (withArgs 1515#32 4#32 0#32).arg1.toNat ∧
    (withArgs 1514#32 4#32 0#32).arg1.toNat = 4 ∧
    (withArgs 1514#32 4#32 0#32).arg0.toNat + (withArgs 1514#32 4#32 0#32).arg1.toNat ≤ (withArgs 1514#32 4#32 0#32).fixed.bufSize := by
  decide

/-- V3 rows 19 and 20: one byte past the end, and the empty range at the end. -/
theorem test_witness_CsumAddAddsTheRange :
    (withArgs 1518#32 1#32 0#32).fixed.bufSize < (withArgs 1518#32 1#32 0#32).arg0.toNat + (withArgs 1518#32 1#32 0#32).arg1.toNat ∧
    (withArgs 1518#32 0#32 0#32).arg0.toNat + (withArgs 1518#32 0#32 0#32).arg1.toNat ≤ (withArgs 1518#32 0#32 0#32).fixed.bufSize := by
  decide

theorem test_witness_CsumChecksumsTheRange :
    (withArgs 1500#32 19#32 0#32).fixed.bufSize < (withArgs 1500#32 19#32 0#32).arg0.toNat + (withArgs 1500#32 19#32 0#32).arg1.toNat ∧
    (withArgs 1500#32 18#32 0#32).arg0.toNat + (withArgs 1500#32 18#32 0#32).arg1.toNat ≤
      (withArgs 1500#32 18#32 0#32).fixed.bufSize := by decide

/-- W1: the header with its checksum field, at offset 10, zero. -/
theorem test_witness_ChecksumRoundTripGivesZero : ∃ s : State, s.arg2 = 0#32 ∧ s.arg0.toNat + s.arg1.toNat ≤ s.fixed.bufSize ∧
    s.arg1.toNat % 2 = 0 ∧ 10 % 2 = 0 ∧ 10 + 2 ≤ s.arg1.toNat ∧ s.be16 (s.arg0.toNat + 10) = 0 :=
  ⟨{ framed 20 0x45000073000040004011_0000_c0a80001c0a800c7 with arg1 := 20#32 }, by decide⟩

theorem test_witness_EvenRangesChain : (2#32).toNat % 2 = 0 ∧ (1500#32).toNat + (2#32).toNat + (16#32).toNat ≤ conf.fixed.bufSize ∧
    conf.fixed.bufSize ≤ 65535 := by decide

/-- The address 0, a refresh of the last live slot, an insert, a full cache. -/
theorem test_witness_ArpAddRefreshesOrInserts :
    ({ cached with arg0 := 0#32 } : State).arg0 = 0#32 ∧
    (0xC0A80114#32 ≠ 0#32 ∧ LeastIndex cached.nArp (cached.arpHolds 0xC0A80114#32) 1) ∧
    (0x0A000001#32 ≠ 0#32 ∧ NoIndex cached.nArp (cached.arpHolds 0x0A000001#32) ∧ LeastIndex cached.nArp (cached.arpHolds 0#32) 2) ∧
    (0x0A000001#32 ≠ 0#32 ∧ NoIndex tiny.nArp (tiny.arpHolds 0x0A000001#32) ∧ NoIndex tiny.nArp (tiny.arpHolds 0#32)) := by
  unfold LeastIndex NoIndex State.arpHolds; decide

theorem test_witness_ArpGetFindsTheSlot :
    NoIndex cached.nArp (cached.arpHolds 0x0A000001#32) ∧
    (0xC0A80101#32 ≠ 0#32 ∧ LeastIndex cached.nArp (cached.arpHolds 0xC0A80101#32) 0) := by
  unfold LeastIndex NoIndex State.arpHolds; decide

/-- V4 rows 16, 15, 17, 19: the broadcast address, a redirected hit, a miss, and a key of 0. -/
theorem test_witness_ArpResolveGivesTheDestination :
    cached.ResolvesTo 0xFFFFFFFF#32 0xFFFFFFFFFFFF#48 2 0xFFFFFFFF#32 ∧
    cached.ResolvesTo 0x08080808#32 0x001122334455#48 1 0xC0A80101#32 ∧
    cached.ResolvesTo 0xC0A801FF#32 0xFFFFFFFFFFFF#48 0 0xC0A801FF#32 ∧
    ({ cached with gateway := 0#32 } : State).ResolvesTo 0x08080808#32 0xFFFFFFFFFFFF#48 0 0#32 := by
  refine ⟨.inl ⟨rfl, rfl, rfl, rfl⟩, .inr (.inl ⟨by decide, by decide, by decide, rfl, 0, ?_, rfl⟩),
    .inr (.inr ⟨by decide, by decide, .inr ?_, rfl, rfl⟩), .inr (.inr ⟨by decide, by decide, .inl rfl, rfl, rfl⟩)⟩ <;>
  · first | unfold LeastIndex State.arpHolds | unfold NoIndex State.arpHolds
    decide

theorem test_witness_ArpTickAgesAndEvicts : 2 < cached.nArp ∧ (cached.arpAt 2).ip = 0#32 ∧
    ((cached.arpAt 1).ip ≠ 0#32 ∧ (cached.arpAt 1).ttl = 1#16) ∧ ((cached.arpAt 0).ip ≠ 0#32 ∧ 1 < (cached.arpAt 0).ttl.toNat) := by
  decide

theorem test_witness_ArpStatCountsLiveSlots : 2 = (List.range cached.nArp).countP (fun i => (cached.arpAt i).ip ≠ 0#32) ∧
    1 = (List.range tiny.nArp).countP (fun i => (tiny.arpAt i).ip ≠ 0#32) := by decide

/-- V4 rows 12 and 13: the last slot and one past it. -/
theorem test_witness_ArpSlotReadsOneSlot : ({ conf with arg0 := 5#32 } : State).nArp ≤ (5#32).toNat ∧
    conf.arp[(4#32).toNat]? = some ⟨0#32, 0#48, 0#16⟩ := by decide

/-- Before and at expiry. -/
theorem test_witness_ArpEntryExpiresAfterItsTtl : 0 < cached.nArp ∧ (cached.arpAt 0).ip ≠ 0#32 ∧ (cached.arpAt 0).ttl ≠ 0#16 ∧
    29 < (cached.arpAt 0).ttl.toNat ∧ (cached.arpAt 0).ttl.toNat ≤ 30 := by decide

/-- Nothing to learn, a refresh, an insert, and a full cache. -/
theorem test_witness_LearnRefreshesOrInsertsTheKey :
    ({ cached with gateway := 0#32 } : State).redirectKey 0x08080808#32 = 0#32 ∧
    (0x08080808#32 ≠ 0#32 ∧ cached.redirectKey 0x08080808#32 ≠ 0#32 ∧
      LeastIndex cached.nArp (cached.arpHolds (cached.redirectKey 0x08080808#32)) 0) ∧
    (NoIndex cached.nArp (cached.arpHolds (cached.redirectKey 0xC0A80163#32)) ∧ LeastIndex cached.nArp (cached.arpHolds 0#32) 2) ∧
    (tiny.redirectKey 0xC0A80163#32 ≠ 0#32 ∧ NoIndex tiny.nArp (tiny.arpHolds (tiny.redirectKey 0xC0A80163#32)) ∧
      NoIndex tiny.nArp (tiny.arpHolds 0#32)) := by
  unfold LeastIndex NoIndex State.arpHolds; decide

/-- V5 rows 34, 33 and 9. -/
theorem test_witness_ClassifyChecksLengthThenOwnership :
    conf.fixed.bufSize < (1519#32).toNat ∧ ((46#32).toNat ≤ conf.fixed.bufSize ∧ ({ conf with own := .rx } : State).own ≠ .free) ∧
    ((13#32).toNat ≤ conf.fixed.bufSize ∧ conf.own = .free ∧ (13#32).toNat < 14) := by decide

/-- A frame in BUF with its length in ARG0. -/
def frame (n v : Nat) : State := { framed n v with arg0 := BitVec.ofNat 32 n }

/-- V5 rows 3 and 1. -/
theorem test_witness_ClassifyAnswersArpRequest :
    (({ frame 42 fReq with localIp := 0#32 } : State).arpFrame 1 ∧ ({ frame 42 fReq with localIp := 0#32 } : State).localIp = 0#32) ∧
    (frame 42 fReq).arpFrame 1 ∧ (frame 42 fReq).localIp ≠ 0#32 ∧ (frame 42 fReq).be32 38 = (frame 42 fReq).localIp.toNat := by
  unfold State.arpFrame; decide

/-- V5 row 5. -/
theorem test_witness_ClassifyLearnsArpReply : (frame 42 fRep).arpFrame 2 := by unfold State.arpFrame; decide

/-- V5 row 11. -/
theorem test_witness_ClassifyReportsIcmp : (frame 42 fIcmp).ipFrame 5 28 1 ∧ (frame 42 fIcmp).ipAccepted 1 := by
  unfold State.ipFrame State.ipAccepted State.linkBroadcast; decide

/-- F_UDP with its UDP length replaced. -/
def fUdpLen (ulen : Nat) : Nat := fUdp - 12 * 2 ^ 48 + ulen * 2 ^ 48

/-- V5 rows 22 and 21, and a frame that is reported. -/
theorem test_witness_ClassifyReportsUdp :
    ((frame 46 (fUdpLen 7)).ipFrame 5 32 17 ∧ (frame 46 (fUdpLen 7)).ipAccepted 17 ∧ (frame 46 (fUdpLen 7)).be16 (34 + 4) < 8) ∧
    ((frame 46 (fUdpLen 13)).ipFrame 5 32 17 ∧ (frame 46 (fUdpLen 13)).ipAccepted 17 ∧
      32 - 4 * 5 < (frame 46 (fUdpLen 13)).be16 (34 + 4)) ∧
    ((frame 46 fUdp).ipFrame 5 32 17 ∧ (frame 46 fUdp).ipAccepted 17 ∧ 34 = 14 + 4 * 5 ∧ 12 = (frame 46 fUdp).be16 (34 + 4) ∧
      8 ≤ 12 ∧ 12 ≤ 32 - 4 * 5 ∧ (frame 46 fUdp).nSess .udp ≤ 254 ∧ (frame 46 fUdp).nApp .udp ≤ 254) ∧
    (BitVec.ofNat 32 ((frame 46 fUdp).be32 26) = 0xC0A80114#32 ∧ BitVec.ofNat 16 ((frame 46 fUdp).be16 34) = 6000#16 ∧
      BitVec.ofNat 16 ((frame 46 fUdp).be16 36) = 5000#16) := by
  unfold State.ipFrame State.ipAccepted State.linkBroadcast; decide

/-- V5 rows 12, 13 and 14: the demultiplexer finds nothing, an application, a session. -/
theorem test_witness_ClassifyReportsUdp_demux :
    (frame 46 fUdp).DemuxAnswers .udp 0xC0A80114#32 6000#16 5000#16 0 0 ∧
    ({ frame 46 fUdp with appUdp := socketed.appUdp } : State).DemuxAnswers .udp 0xC0A80114#32 6000#16 5000#16 2 0 ∧
    ({ frame 46 fUdp with udp := socketed.udp } : State).DemuxAnswers .udp 0xC0A80114#32 6000#16 5000#16 1 0 := by
  refine ⟨?_, ?_, ?_⟩ <;>
  · unfold State.DemuxAnswers LeastIndex NoIndex State.sessHolds State.appHolds
    decide

/-- F_SA with data offset 4, and as it is. -/
theorem test_witness_ClassifyReportsTcp :
    ((frame 54 (fSa - 0x1000 * 2 ^ 48)).ipFrame 5 40 6 ∧ (frame 54 (fSa - 0x1000 * 2 ^ 48)).ipAccepted 6 ∧ 34 = 14 + 4 * 5 ∧
      (frame 54 (fSa - 0x1000 * 2 ^ 48)).be16 (34 + 12) / 2 ^ 12 < 5) ∧
    ((frame 54 fSa).ipFrame 5 40 6 ∧ (frame 54 fSa).ipAccepted 6 ∧ 0x5012 = (frame 54 fSa).be16 (34 + 12) ∧ 5 = 0x5012 / 2 ^ 12 ∧
      20 ≤ 40 - 4 * 5 ∧ 4 * 5 ≤ 40 - 4 * 5 ∧ (frame 54 fSa).nSess .tcp ≤ 254 ∧ (frame 54 fSa).nApp .tcp ≤ 254) ∧
    (BitVec.ofNat 32 ((frame 54 fSa).be32 26) = 0xC0A80114#32 ∧ BitVec.ofNat 16 ((frame 54 fSa).be16 34) = 80#16 ∧
      BitVec.ofNat 16 ((frame 54 fSa).be16 36) = 49152#16) := by
  unfold State.ipFrame State.ipAccepted State.linkBroadcast; decide

/-- No answer for it, an application on its port in slot 1, and its session in slot 1. -/
theorem test_witness_ClassifyReportsTcp_demux :
    (frame 54 fSa).DemuxAnswers .tcp 0xC0A80114#32 80#16 49152#16 0 0 ∧
    ({ frame 54 fSa with appTcp := [App.empty, ⟨49152#16, 5000#32, 0x11#32⟩] } : State).DemuxAnswers
      .tcp 0xC0A80114#32 80#16 49152#16 2 1 ∧
    ({ frame 54 fSa with tcp := connected.tcp } : State).DemuxAnswers .tcp 0xC0A80114#32 80#16 49152#16 1 1 := by
  refine ⟨?_, ?_, ?_⟩ <;>
  · unfold State.DemuxAnswers LeastIndex NoIndex State.sessHolds State.appHolds
    decide

/-- V5 rows 10, 8, 6, 30 and 15: another type, a short and an unknown ARP frame, a short IP frame, another destination; and
row 24, an unknown protocol. -/
theorem test_witness_ClassifyDropsTheRest :
    ((frame 42 (fReq + 0x80D7 * 2 ^ 224)).be16 12 = 0x88DD) ∧
    ((frame 41 (fReq / 256)).be16 12 = 0x0806 ∧ (frame 41 (fReq / 256)).arg0.toNat < 42) ∧
    ((frame 42 (fReq + 2 * 2 ^ 160)).be16 12 = 0x0806 ∧ (frame 42 (fReq + 2 * 2 ^ 160)).be16 20 = 3) ∧
    ((frame 45 (fUdp / 256)).be16 12 = 0x0800 ∧ (frame 45 (fUdp / 256)).arg0.toNat < 14 + (frame 45 (fUdp / 256)).be16 16) ∧
    ((frame 46 (fUdp + 2 ^ 96)).be16 12 = 0x0800 ∧ ¬ (frame 46 (fUdp + 2 ^ 96)).ipAccepted ((frame 46 (fUdp + 2 ^ 96)).be8 23)) ∧
    ((frame 46 (fUdp + 30 * 2 ^ 176)).ipFrame 5 32 47 ∧ (frame 46 (fUdp + 30 * 2 ^ 176)).ipAccepted 47) := by
  unfold State.ipFrame State.ipAccepted State.linkBroadcast; decide

theorem test_witness_ClassifyReadsOnlyTheFrame : ∃ (s t : State) (m : Memory), exec .classify s = .next t ∧
    (∀ a, a < s.arg0.toNat → ({ s with buf := m } : State).bufByte a = s.bufByte a) ∧ s.own = .free ∧ t.own = .rx :=
  ⟨frame 42 fIcmp, _, (frame 42 fIcmp).buf ++ [(1000, 7#8)], rfl, by decide, rfl, by decide⟩

/-- V6 rows 11, 13 and 9. -/
theorem test_witness_ArpReqStagesARequest :
    ({ conf with gateway := 0#32 } : State).redirectKey 0x08080808#32 = 0#32 ∧
    (conf.redirectKey 0xC0A80114#32 ≠ 0#32 ∧ ({ conf with own := .tx } : State).own ≠ .free) ∧ conf.own = .free := by decide

/-- V6 rows 5, 7 and 6; the destinations are those of test_witness_ArpResolveGivesTheDestination. -/
theorem test_witness_IpTxHdrBuildsTheHeaders :
    (1485 = (0x05CD0011#32).toNat / 2 ^ 16 ∧ conf.fixed.bufSize < 34 + 1485) ∧
    (34 + 1484 ≤ conf.fixed.bufSize ∧ ({ conf with own := .tx } : State).own ≠ .free) ∧
    (1484 = (0x05CC0011#32).toNat / 2 ^ 16 ∧ 34 + 1484 ≤ cached.fixed.bufSize ∧ cached.own = .free) := by decide

/-- The first ports that are out of range; the last port in a table; the last free slot; a full table. -/
theorem test_witness_PortOpenRegistersOnce :
    ((0#32).toNat = 0 ∧ 0xFFFF < (0x10000#32).toNat) ∧ 0x0000FFFF#32 = 0#16 ++ 0xFFFF#16 ∧
    LeastIndex (socketed.nApp .udp) (socketed.appHolds .udp 5000#16) 0 ∧
    (NoIndex (connected.nApp .tcp) (connected.appHolds .tcp 81#16) ∧
      NoIndex (connected.nApp .tcp) (fun j => (connected.appAt .tcp j).port = 0#16)) ∧
    (NoIndex (socketed.nApp .udp) (socketed.appHolds .udp 0xFFFF#16) ∧
      LeastIndex (socketed.nApp .udp) (fun j => (socketed.appAt .udp j).port = 0#16) 1) := by
  unfold LeastIndex NoIndex State.appHolds; decide

theorem test_witness_PortCloseClearsTheRegistration :
    NoIndex (socketed.nApp .udp) (socketed.appHolds .udp 80#16) ∧ LeastIndex (connected.nApp .tcp) (connected.appHolds .tcp 80#16) 0 := by
  unfold LeastIndex NoIndex State.appHolds; decide

theorem test_witness_PortFindReadsTheRegistration :
    NoIndex (connected.nApp .tcp) (connected.appHolds .tcp 5000#16) ∧
      LeastIndex (socketed.nApp .udp) (socketed.appHolds .udp 5000#16) 0 := by
  unfold LeastIndex NoIndex State.appHolds; decide

theorem test_witness_SessAddTakesTheLowestFreeSlot :
    0x13881770#32 = 5000#16 ++ 6000#16 ∧
    LeastIndex (socketed.nSess .udp) (socketed.sessHolds .udp 0xC0A80114#32 5000#16 6000#16) 0 ∧
    (NoIndex (tiny.nSess .tcp) (tiny.sessHolds .tcp 9#32 80#16 1234#16) ∧ NoIndex (tiny.nSess .tcp) (fun i => tiny.inUse .tcp i = false)) ∧
    (NoIndex (connected.nSess .tcp) (connected.sessHolds .tcp 9#32 80#16 1234#16) ∧
      LeastIndex (connected.nSess .tcp) (fun i => connected.inUse .tcp i = false) 0) := by
  unfold LeastIndex NoIndex State.sessHolds; decide

/-- A handle out of range; a session that closes its port; one that has no port to close. -/
theorem test_witness_SessRemoveFreesTheSlot :
    socketed.inUse .udp 2 = false ∧
    (socketed.inUse .udp 0 = true ∧ (socketed.sessAt .udp 0).closePort = true ∧
      LeastIndex (socketed.nApp .udp) (socketed.appHolds .udp (socketed.sessAt .udp 0).localPort) 0) ∧
    (connected.inUse .tcp 1 = true ∧
      NoIndex (connected.nApp .tcp) (connected.appHolds .tcp (connected.sessAt .tcp 1).localPort)) := by
  unfold LeastIndex NoIndex State.appHolds; decide

theorem test_witness_SessGetReadsOnlyInUseSlots : socketed.inUse .udp (99#32).toNat = false ∧ connected.inUse .tcp (1#32).toNat = true := by
  decide

theorem test_witness_SessLookupFindsTheTuple :
    NoIndex (socketed.nSess .udp) (socketed.sessHolds .udp 0xC0A80114#32 5000#16 6001#16) ∧
    LeastIndex (connected.nSess .tcp) (connected.sessHolds .tcp 0xC0A80114#32 49152#16 80#16) 1 := by
  unfold LeastIndex NoIndex State.sessHolds; decide

/-- State codes 5 and 4; a handle not in use. -/
theorem test_witness_TcpSetWritesTheBookkeeping :
    4 < (5#32).toNat % 8 ∧ ((4#32).toNat % 8 ≤ 4 ∧ connected.inUse .tcp 0 = false) ∧
    (ConnState.terminationIncoming.code.toNat = (0x34#32).toNat % 8 ∧ connected.inUse .tcp 1 = true) := by decide

theorem test_witness_TcpGetReadsTheBookkeeping : connected.inUse .tcp (2#32).toNat = false ∧ connected.inUse .tcp (1#32).toNat = true := by
  decide

theorem test_witness_RemovedHandleIsStaleThenReused : tiny.Inv ∧ 0 = tiny.arg0.toNat ∧ tiny.inUse .udp 0 = true ∧
    (∀ i, i < 0 → tiny.inUse .udp i = true) ∧
    ∃ t, exec (.sessRemove .udp) tiny = .next t ∧ NoIndex (t.nSess .udp) (t.sessHolds .udp 9#32 80#16 1234#16) :=
  ⟨tiny_inv, rfl, rfl, fun i h => absurd h (Nat.not_lt_zero i), _, rfl, by unfold NoIndex State.sessHolds; decide⟩

end Sys2Proof.Tests
end

section
/-! PROOFS of the family `00_scope`: no step changes a parameter or a capacity (spec/00_scope.md rule R7, spec/10_state.md rule
R35). The parameters and the five capacities of a state form one `Config.Params`; every named update of State keeps it, so
every command does, and with it every turn. -/

namespace Sys2Proof.Machine

/-! ### The parameters a state was built with -/

/-- The parameters of R7 as a state carries them: the constants, and the lengths of its tables (log 1). -/
def State.params (s : State) : Config.Params where
  toFixed := s.fixed
  nArp := s.nArp
  nUdp := s.nSess .udp
  nTcp := s.nSess .tcp
  nAppUdp := s.nApp .udp
  nAppTcp := s.nApp .tcp

/-- Equal parameters are equal constants and equal capacities. -/
theorem State.params_eq_iff {s t : State} :
    t.params = s.params ↔
      t.fixed = s.fixed ∧ t.nArp = s.nArp ∧ (∀ tb, t.nSess tb = s.nSess tb) ∧ (∀ tb, t.nApp tb = s.nApp tb) := by
  simp only [State.params, Config.Params.mk.injEq]
  constructor
  · rintro ⟨hf, ha, hu, ht, hau, hat⟩
    exact ⟨hf, ha, fun tb => by cases tb <;> assumption, fun tb => by cases tb <;> assumption⟩
  · rintro ⟨hf, ha, hs, hp⟩
    exact ⟨hf, ha, hs .udp, hs .tcp, hp .udp, hp .tcp⟩

/-- The parameters depend on the constants and the tables alone. -/
theorem State.params_congr {s t : State}
    (h : t.fixed = s.fixed ∧ t.arp = s.arp ∧ t.udp = s.udp ∧ t.tcp = s.tcp ∧ t.appUdp = s.appUdp ∧ t.appTcp = s.appTcp) :
    t.params = s.params := by
  obtain ⟨hfixed, harp, hudp, htcp, happUdp, happTcp⟩ := h
  simp only [State.params, State.nArp, State.nSess, State.nApp, hfixed, harp, hudp, htcp, happUdp, happTcp]

/-- R35: the CAPS registers show parameters and capacities alone. -/
theorem State.caps_of_params_eq {s t : State} (h : t.params = s.params) :
    t.caps0 = s.caps0 ∧ t.caps1 = s.caps1 ∧ t.caps2 = s.caps2 := by
  obtain ⟨hf, ha, hs, hp⟩ := State.params_eq_iff.1 h
  simp only [State.caps0, State.caps1, State.caps2, hf, ha, hs, hp, and_self]

/-! ### Every named update keeps them -/

@[simp] theorem State.params_setSess (s : State) (tb : Table) (i : Nat) (e : Session) :
    (s.setSess tb i e).params = s.params := by
  simp [State.params_eq_iff, State.nArp, State.nApp]

@[simp] theorem State.params_newSess (s : State) (tb : Table) (i : Nat) (e : Session) :
    (s.newSess tb i e).params = s.params := by
  simp [State.params_eq_iff, State.nArp, State.nApp]

@[simp] theorem State.params_setApp (s : State) (tb : Table) (j : Nat) (a : App) :
    (s.setApp tb j a).params = s.params := by
  simp [State.params_eq_iff, State.nArp, State.nSess]

@[simp] theorem State.params_freeSlot (s : State) (tb : Table) (h : Nat) : (s.freeSlot tb h).params = s.params := by
  simp [State.freeSlot]

/-- A write to the ARP cache that keeps N_ARP keeps the parameters. -/
theorem State.params_of_arp_write {s t : State} (ht : t = { s with arp := t.arp }) (hn : t.nArp = s.nArp) :
    t.params = s.params := by
  rw [State.params_eq_iff]
  refine ⟨?_, hn, fun tb => ?_, fun tb => ?_⟩ <;> rw [ht] <;> rfl

@[simp] theorem State.params_arpInsert (s : State) (ip : IPv4) (mac : Mac) :
    (s.arpInsert ip mac).1.params = s.params :=
  State.params_of_arp_write (s.arpInsert_frame ip mac).1 (s.arpInsert_frame ip mac).2

@[simp] theorem State.params_learn (s : State) (ip : IPv4) (mac : Mac) : (s.learn ip mac).params = s.params :=
  State.params_of_arp_write (s.learn_frame ip mac).1 (s.learn_frame ip mac).2

/-- R300: a reset restores every table at its own length. -/
@[simp] theorem State.params_clear (s : State) : s.clear.params = s.params := by
  simp [State.params, State.clear, State.nArp, State.nSess, State.nApp]

/-- R301: BUF, which a power cycle loses, has its size among the constants. -/
@[simp] theorem State.params_powerCycle (s : State) : s.powerCycle.params = s.params := s.params_clear

@[simp] theorem State.params_hostRead (s : State) (r : Reg) : (s.hostRead r).params = s.params := by
  rw [s.hostRead_frame r]; rfl

@[simp] theorem State.params_regWrite (s : State) (r : Reg) (v : Word) : (s.regWrite r v).params = s.params := by
  rw [s.regWrite_frame r v]; rfl

/-- Whatever CLASSIFY's stages do to the state, they keep the parameters. -/
theorem State.params_of_classifyOutcome {s t : State} (h : s.classifyOutcome t) : t.params = s.params := by
  obtain ⟨ip, mac, rfl | rfl | ⟨dst, oper, tha, tpa, rfl⟩⟩ := h
  · exact s.params_learn ip mac
  · exact s.params_learn ip mac
  · exact (State.params_congr (s := s.learn ip mac) (by simp)).trans (s.params_learn ip mac)

/-! ### Every command keeps them -/

/-- Whatever next state the outcome holds has the parameters of `s`. -/
def State.KeepsParams (s : State) (o : Host.Outcome State Fault Refusal) : Prop :=
  ∀ t, o = .next t → t.params = s.params

/-- `complete` keeps the parameters of the state it is given (R272). -/
theorem State.KeepsParams.complete {s u : State} {c : ResultCode} (h : u.params = s.params) :
    s.KeepsParams (complete c u) := by
  intro t ht
  rw [complete_eq_next ht]
  exact h

/-- `raise` keeps everything but RC and BUSY (R271). -/
theorem State.KeepsParams.raise {s : State} {c : ResultCode} : s.KeepsParams (raise c s) := by
  intro t ht
  rw [raise_eq_next ht]
  rfl

theorem execBufRd_keepsParams (s : State) : s.KeepsParams (execBufRd s) := by
  simp only [execBufRd]
  split
  · exact .raise
  · exact .complete rfl

theorem execBufWr_keepsParams (s : State) : s.KeepsParams (execBufWr s) := by
  simp only [execBufWr]
  split
  · exact .raise
  · exact .complete rfl

theorem execCsumAdd_keepsParams (s : State) : s.KeepsParams (execCsumAdd s) := by
  simp only [execCsumAdd]
  split
  · exact .complete rfl
  · exact .raise

theorem execCsum_keepsParams (s : State) : s.KeepsParams (execCsum s) := by
  simp only [execCsum]
  split
  · exact .complete rfl
  · exact .raise

theorem execArpAdd_keepsParams (s : State) : s.KeepsParams (execArpAdd s) := by
  have hins := s.params_arpInsert s.arg0 s.argMac
  simp only [execArpAdd]
  split
  · exact .raise
  · split
    · next he => rw [he] at hins; exact .complete hins
    · next he => rw [he] at hins; exact .complete hins

theorem execArpGet_keepsParams (s : State) : s.KeepsParams (execArpGet s) := by
  simp only [execArpGet]
  split
  · exact .complete rfl
  · exact .complete rfl

/-- R168: a tick maps the cache slot by slot. -/
theorem execArpTick_keepsParams (s : State) : s.KeepsParams (execArpTick s) := by
  refine .complete (State.params_eq_iff.2 ⟨rfl, ?_, fun _ => rfl, fun _ => rfl⟩)
  exact List.length_map _

theorem execArpSlot_keepsParams (s : State) : s.KeepsParams (execArpSlot s) := by
  simp only [execArpSlot]
  split
  · exact .raise
  · exact .complete rfl

theorem execClassify_keepsParams (s : State) : s.KeepsParams (execClassify s) := by
  intro t h
  obtain ⟨-, ht⟩ | ⟨-, -, u, r, hu, rfl⟩ := execClassify_cases h
  · rw [ht]; rfl
  · exact (State.params_of_classifyOutcome hu :)

theorem execArpReq_keepsParams (s : State) : s.KeepsParams (execArpReq s) := by
  simp only [execArpReq]
  split
  · exact .raise
  · split
    · exact .raise
    · exact .complete (State.params_congr (by simp))

theorem execIpTxHdr_keepsParams (s : State) : s.KeepsParams (execIpTxHdr s) := by
  simp only [execIpTxHdr]
  split
  · exact .raise
  · split
    · exact .raise
    · exact .complete (State.params_congr (by simp))

theorem execPortOpen_keepsParams (tb : Table) (s : State) : s.KeepsParams (execPortOpen tb s) := by
  simp only [execPortOpen]
  split
  · exact .raise
  · split
    · exact .complete rfl
    · split
      · exact .complete rfl
      · exact .complete (s.params_setApp ..)

theorem execPortClose_keepsParams (tb : Table) (s : State) : s.KeepsParams (execPortClose tb s) := by
  simp only [execPortClose]
  split
  · exact .raise
  · split
    · exact .complete rfl
    · exact .complete (s.params_setApp ..)

theorem execPortFind_keepsParams (tb : Table) (s : State) : s.KeepsParams (execPortFind tb s) := by
  simp only [execPortFind]
  split
  · exact .raise
  · split
    · exact .complete rfl
    · exact .complete rfl

theorem execSessAdd_keepsParams (tb : Table) (s : State) : s.KeepsParams (execSessAdd tb s) := by
  simp only [execSessAdd]
  split
  · exact .complete rfl
  · split
    · exact .complete rfl
    · exact .complete (s.params_newSess ..)

theorem execSessRemove_keepsParams (tb : Table) (s : State) : s.KeepsParams (execSessRemove tb s) := by
  simp only [execSessRemove]
  split
  · split
    · exact .complete (((s.freeSlot tb _).params_setApp ..).trans (s.params_freeSlot ..))
    · exact .complete (s.params_freeSlot ..)
  · exact .complete rfl

theorem execSessGet_keepsParams (tb : Table) (s : State) : s.KeepsParams (execSessGet tb s) := by
  simp only [execSessGet]
  split
  · exact .complete rfl
  · exact .complete rfl

theorem execSessLookup_keepsParams (tb : Table) (s : State) : s.KeepsParams (execSessLookup tb s) := by
  simp only [execSessLookup]
  split
  · exact .complete rfl
  · exact .complete rfl

/-- R240: TCP_SET replaces one slot of the TCP table. -/
theorem execTcpSet_keepsParams (s : State) : s.KeepsParams (execTcpSet s) := by
  simp only [execTcpSet]
  split
  · exact .raise
  · split
    · refine .complete (State.params_eq_iff.2 ⟨rfl, rfl, fun tb => ?_, fun _ => rfl⟩)
      cases tb with
      | udp => rfl
      | tcp => exact List.length_set
    · exact .complete rfl

theorem execTcpGet_keepsParams (s : State) : s.KeepsParams (execTcpGet s) := by
  simp only [execTcpGet]
  split
  · exact .complete rfl
  · exact .complete rfl

/-- No command changes a parameter or a capacity. -/
theorem exec_keepsParams (i : Instr) (s : State) : s.KeepsParams (exec i s) := by
  cases i with
  | nop => exact .complete rfl
  | reset => exact .complete s.params_clear
  | bufRd => exact execBufRd_keepsParams s
  | bufWr => exact execBufWr_keepsParams s
  | bufRelease => exact .complete rfl
  | csumInit => exact .complete rfl
  | csumAdd => exact execCsumAdd_keepsParams s
  | csumAddw => exact .complete rfl
  | csumFinal => exact .complete rfl
  | csum => exact execCsum_keepsParams s
  | arpAdd => exact execArpAdd_keepsParams s
  | arpGet => exact execArpGet_keepsParams s
  | arpResolve => exact .complete rfl
  | arpTick => exact execArpTick_keepsParams s
  | arpStat => exact .complete rfl
  | arpSlot => exact execArpSlot_keepsParams s
  | classify => exact execClassify_keepsParams s
  | arpReq => exact execArpReq_keepsParams s
  | ipTxHdr => exact execIpTxHdr_keepsParams s
  | portOpen tb => exact execPortOpen_keepsParams tb s
  | portClose tb => exact execPortClose_keepsParams tb s
  | portFind tb => exact execPortFind_keepsParams tb s
  | sessAdd tb => exact execSessAdd_keepsParams tb s
  | sessRemove tb => exact execSessRemove_keepsParams tb s
  | sessGet tb => exact execSessGet_keepsParams tb s
  | sessLookup tb => exact execSessLookup_keepsParams tb s
  | tcpSet => exact execTcpSet_keepsParams s
  | tcpGet => exact execTcpGet_keepsParams s

/-! ### Every turn keeps them -/

theorem blockTurn_keepsParams (s : State) : s.KeepsParams (blockTurn s) := by
  intro t h
  obtain ⟨-, rfl⟩ | ⟨-, i, -, hi⟩ | ⟨-, -, rfl⟩ := blockTurn_cases h
  · rfl
  · exact exec_keepsParams i s t hi
  · rfl

theorem hostTurn_keepsParams (a : HostAccess) (s : State) : s.KeepsParams (hostTurn a s) := by
  intro t h
  obtain ⟨off, -, -, -, rfl⟩ | ⟨off, v, -, -, -, -, rfl⟩ := hostTurn_cases h
  · exact s.params_hostRead _
  · exact s.params_regWrite _ v

/-- No step changes a parameter or a capacity; taking an input off the list changes neither. -/
theorem step_keepsParams (s : State) : s.KeepsParams (step s) := by
  intro t h
  obtain ⟨-, hb⟩ | ⟨rest, -, hb⟩ | ⟨a, rest, -, ha⟩ | ⟨rest, -, rfl⟩ := step_cases h
  · exact blockTurn_keepsParams s t hb
  · exact blockTurn_keepsParams { s with inputs := rest } t hb
  · exact hostTurn_keepsParams a { s with inputs := rest } t ha
  · exact State.params_powerCycle { s with inputs := rest }

/-- Settles O18: every step keeps `State.params`, and the CAPS registers are functions of it. -/
theorem stepKeepsParametersAndCapacities : Obligations.StepKeepsParametersAndCapacities := by
  intro s t h
  have hp := step_keepsParams s t h
  obtain ⟨hfixed, harp, hsess, happ⟩ := State.params_eq_iff.1 hp
  exact ⟨hfixed, harp, hsess, happ, State.caps_of_params_eq hp⟩

end Sys2Proof.Machine
end

section
/-! PROOFS of the family `10_state`: all that a command can do. Every command ends with its effect on the tables, BUF
and the registers, followed by a report in RES0..RES3 and RC; `exec_permits` walks through the commands once, and
the statements about every command are case splits on `CommandEffect`. -/

namespace Sys2Proof.Machine

/-! ### The effects -/

/-- What the command `i` can do to the state `s` beside its report: one constructor per kind of write, with the facts the command
has checked before it writes. -/
inductive CommandEffect (s : State) : Instr → State → Prop
  /-- A query, an outcome other than OK, an error, or NOP. -/
  | unchanged (i : Instr) : CommandEffect s i s
  | reset : CommandEffect s .reset s.clear
  | bufWr (hfits : s.arg0.toNat + s.arg1.toNat ≤ s.fixed.bufSize) :
      CommandEffect s .bufWr (s.memWrite s.arg0.toNat s.arg1.toNat s.arg2.toNat)
  | bufRelease : CommandEffect s .bufRelease { s with own := .free }
  | accumulate (i : Instr) (acc : Word) (hi : i ∈ [.csumInit, .csumAdd, .csumAddw, .csum]) :
      CommandEffect s i { s with csumAcc := acc }
  | arpAdd : CommandEffect s .arpAdd (s.arpInsert s.arg0 s.argMac).1
  | arpTick : CommandEffect s .arpTick { s with arp := s.arp.map ArpSlot.tick }
  | classify {u : State} (hu : s.classifyOutcome u) : CommandEffect s .classify u
  | arpReq (key : IPv4) : CommandEffect s .arpReq { s.writeArpFrame bcastMac 1#16 0#48 key with own := .tx }
  | ipTxHdr (mac : Mac) (dst : IPv4) (proto : Byte) (plen : Nat) (c : Half) :
      CommandEffect s .ipTxHdr
        { (s.writeIpHeader mac dst proto plen).memWrite 24 2 c.toNat with ipId := s.ipId + 1#16, own := .tx }
  | portOpen (tb : Table) (a : App) (j : Nat) (hnew : NoIndex (s.nApp tb) (s.appHolds tb a.port)) :
      CommandEffect s (.portOpen tb) (s.setApp tb j a)
  | portClose (tb : Table) (j : Nat) : CommandEffect s (.portClose tb) (s.setApp tb j App.empty)
  | sessAdd (tb : Table) (e : Session) (i : Nat)
      (hnew : NoIndex (s.nSess tb) (s.sessHolds tb e.remoteIp e.localPort e.remotePort)) :
      CommandEffect s (.sessAdd tb) (s.newSess tb i e)
  | sessRemove (tb : Table) (h : Nat) : CommandEffect s (.sessRemove tb) (s.freeSlot tb h)
  | sessRemoveWithPort (tb : Table) (h j : Nat) :
      CommandEffect s (.sessRemove tb) ((s.freeSlot tb h).setApp tb j App.empty)
  | tcpSet (h : Nat) (lastSeq lastAck : Word) (st : ConnState) (ack push : Bool) :
      CommandEffect s .tcpSet { s with
        tcp := s.tcp.set h { s.tcpAt h with
          lastSeq := lastSeq, lastAck := lastAck, connState := st, pendingAck := ack, pendingPush := push } }

/-- A command's last writes: RES0..RES3 (R23), RC, and BUSY = 0 (R270). -/
def State.reporting (u : State) (c : ResultCode) (r : Report) : State :=
  { u with res0 := r.r0, res1 := r.r1, res2 := r.r2, res3 := r.r3, rc := c, busy := false }

/-- Whatever next state the outcome holds is an effect of the command `i`, and a report. -/
def State.Permits (s : State) (i : Instr) (o : Host.Outcome State Fault Refusal) : Prop :=
  ∀ t, o = .next t → ∃ (u : State) (c : ResultCode) (r : Report), CommandEffect s i u ∧ t = u.reporting c r

/-- R272: a command that completes with effect `u` and no other write than to the result registers. -/
theorem State.Permits.complete {s u v : State} {i : Instr} {c : ResultCode} (he : CommandEffect s i u)
    (hv : v = { u with res0 := v.res0, res1 := v.res1, res2 := v.res2, res3 := v.res3 }) :
    s.Permits i (Machine.complete c v) := by
  intro t ht
  rw [complete_eq_next ht]
  exact ⟨u, c, ⟨v.res0, v.res1, v.res2, v.res3⟩, he, by rw [hv]; rfl⟩

/-- R272: a command that completes and writes no more than the result registers. -/
theorem State.Permits.query {s v : State} {i : Instr} {c : ResultCode}
    (hv : v = { s with res0 := v.res0, res1 := v.res1, res2 := v.res2, res3 := v.res3 }) :
    s.Permits i (Machine.complete c v) :=
  .complete (.unchanged i) hv

/-- R271: an error has no effect. -/
theorem State.Permits.raise {s : State} {i : Instr} {c : ResultCode} : s.Permits i (Machine.raise c s) :=
  State.Permits.query (v := s) rfl

/-! ### Each command's effect -/

theorem execBufRd_permits (s : State) : s.Permits .bufRd (execBufRd s) := by
  simp only [execBufRd]
  split
  · exact .raise
  · exact .query rfl

theorem execBufWr_permits (s : State) : s.Permits .bufWr (execBufWr s) := by
  simp only [execBufWr]
  obtain ⟨hn, -⟩ | ⟨hs, -, hfits⟩ := s.bufOperands_cases
  · rw [hn]; exact .raise
  · rw [hs]; exact .complete (.bufWr hfits) rfl

theorem execCsumAdd_permits (s : State) : s.Permits .csumAdd (execCsumAdd s) := by
  simp only [execCsumAdd]
  split
  · exact .complete (.accumulate _ (s.sumRange s.csumAcc s.arg0.toNat s.arg1.toNat) (by simp)) rfl
  · exact .raise

theorem execCsum_permits (s : State) : s.Permits .csum (execCsum s) := by
  simp only [execCsum]
  split
  · exact .complete (.accumulate _ (s.sumRange s.arg2 s.arg0.toNat s.arg1.toNat) (by simp)) rfl
  · exact .raise

theorem execArpAdd_permits (s : State) : s.Permits .arpAdd (execArpAdd s) := by
  have heff : CommandEffect s .arpAdd (s.arpInsert s.arg0 s.argMac).1 := .arpAdd
  simp only [execArpAdd]
  split
  · exact .raise
  · split
    · next he => rw [he] at heff; exact .complete heff rfl
    · next he => rw [he] at heff; exact .complete heff rfl

theorem execArpGet_permits (s : State) : s.Permits .arpGet (execArpGet s) := by
  simp only [execArpGet]
  split
  · exact .query rfl
  · exact .query rfl

theorem execArpSlot_permits (s : State) : s.Permits .arpSlot (execArpSlot s) := by
  simp only [execArpSlot]
  split
  · exact .raise
  · exact .query rfl

theorem execClassify_permits (s : State) : s.Permits .classify (execClassify s) := by
  simp only [execClassify]
  split
  · exact .raise
  · split
    · exact .raise
    · exact .complete (.classify (s.classifyFrame_state _)) rfl

theorem execArpReq_permits (s : State) : s.Permits .arpReq (execArpReq s) := by
  simp only [execArpReq]
  split
  · exact .raise
  · split
    · exact .raise
    · have heff := CommandEffect.arpReq (s := s) (s.redirect s.arg0)
      generalize s.writeArpFrame bcastMac 1#16 0#48 (s.redirect s.arg0) = u at heff ⊢
      exact .complete heff rfl

theorem execIpTxHdr_permits (s : State) : s.Permits .ipTxHdr (execIpTxHdr s) := by
  unfold execIpTxHdr
  extract_lets dst plen r built c staged
  have heff : CommandEffect s .ipTxHdr { staged with ipId := s.ipId + 1#16, own := .tx } :=
    .ipTxHdr r.mac dst s.argProtocol plen c
  clear_value staged
  split
  · exact .raise
  · split
    · exact .raise
    · exact .complete heff rfl

theorem execPortOpen_permits (tb : Table) (s : State) : s.Permits (.portOpen tb) (execPortOpen tb s) := by
  simp only [execPortOpen]
  split
  · exact .raise
  · next port _ =>
    split
    · exact .query rfl
    · next hfind =>
      split
      · exact .query rfl
      · exact .complete (.portOpen tb ⟨port, s.arg1, s.arg2⟩ _ ((s.findApp_eq_none_iff tb port).1 hfind)) rfl

theorem execPortClose_permits (tb : Table) (s : State) : s.Permits (.portClose tb) (execPortClose tb s) := by
  simp only [execPortClose]
  split
  · exact .raise
  · split
    · exact .query rfl
    · exact .complete (.portClose ..) rfl

theorem execPortFind_permits (tb : Table) (s : State) : s.Permits (.portFind tb) (execPortFind tb s) := by
  simp only [execPortFind]
  split
  · exact .raise
  · split
    · exact .query rfl
    · exact .query rfl

theorem execSessAdd_permits (tb : Table) (s : State) : s.Permits (.sessAdd tb) (execSessAdd tb s) := by
  simp only [execSessAdd]
  split
  · exact .query rfl
  · next hfind =>
    split
    · exact .query rfl
    · exact .complete (.sessAdd tb _ _ ((s.findTuple_eq_none_iff tb _ _ _).1 hfind)) rfl

theorem execSessRemove_permits (tb : Table) (s : State) : s.Permits (.sessRemove tb) (execSessRemove tb s) := by
  simp only [execSessRemove]
  split
  · split
    · exact .complete (.sessRemoveWithPort ..) rfl
    · exact .complete (.sessRemove ..) rfl
  · exact .query rfl

theorem execSessGet_permits (tb : Table) (s : State) : s.Permits (.sessGet tb) (execSessGet tb s) := by
  simp only [execSessGet]
  split
  · exact .query rfl
  · exact .query rfl

theorem execSessLookup_permits (tb : Table) (s : State) : s.Permits (.sessLookup tb) (execSessLookup tb s) := by
  simp only [execSessLookup]
  split
  · exact .query rfl
  · exact .query rfl

theorem execTcpSet_permits (s : State) : s.Permits .tcpSet (execTcpSet s) := by
  simp only [execTcpSet]
  split
  · exact .raise
  · split
    · exact .complete (.tcpSet ..) rfl
    · exact .query rfl

theorem execTcpGet_permits (s : State) : s.Permits .tcpGet (execTcpGet s) := by
  simp only [execTcpGet]
  split
  · exact .query rfl
  · exact .query rfl

/-- Every command ends with one of its effects and a report. -/
theorem exec_permits (i : Instr) (s : State) : s.Permits i (exec i s) := by
  cases i with
  | nop => exact .query rfl
  | reset => exact .complete .reset rfl
  | bufRd => exact execBufRd_permits s
  | bufWr => exact execBufWr_permits s
  | bufRelease => exact .complete .bufRelease rfl
  | csumInit => exact .complete (.accumulate _ s.arg0 (by simp)) rfl
  | csumAdd => exact execCsumAdd_permits s
  | csumAddw => exact .complete (.accumulate _ (add16 s.csumAcc (lowHalf s.arg0)) (by simp)) rfl
  | csumFinal => exact .query rfl
  | csum => exact execCsum_permits s
  | arpAdd => exact execArpAdd_permits s
  | arpGet => exact execArpGet_permits s
  | arpResolve => exact .query rfl
  | arpTick => exact .complete .arpTick rfl
  | arpStat => exact .query rfl
  | arpSlot => exact execArpSlot_permits s
  | classify => exact execClassify_permits s
  | arpReq => exact execArpReq_permits s
  | ipTxHdr => exact execIpTxHdr_permits s
  | portOpen tb => exact execPortOpen_permits tb s
  | portClose tb => exact execPortClose_permits tb s
  | portFind tb => exact execPortFind_permits tb s
  | sessAdd tb => exact execSessAdd_permits tb s
  | sessRemove tb => exact execSessRemove_permits tb s
  | sessGet tb => exact execSessGet_permits tb s
  | sessLookup tb => exact execSessLookup_permits tb s
  | tcpSet => exact execTcpSet_permits s
  | tcpGet => exact execTcpGet_permits s

end Sys2Proof.Machine
end

section
/-! PROOFS of the family `10_state`: the registers (spec/10_state.md rules R21-R29). -/

namespace Sys2Proof.Machine

/-! ### Frames of the effects -/

theorem State.setApp_frame (s : State) (tb : Table) (j : Nat) (a : App) :
    s.setApp tb j a = { s with appUdp := (s.setApp tb j a).appUdp, appTcp := (s.setApp tb j a).appTcp } := by
  cases tb <;> rfl

theorem State.newSess_frame (s : State) (tb : Table) (i : Nat) (e : Session) :
    s.newSess tb i e = { s with udp := (s.newSess tb i e).udp, tcp := (s.newSess tb i e).tcp } := by
  cases tb <;> rfl

theorem State.freeSlot_frame (s : State) (tb : Table) (h : Nat) :
    s.freeSlot tb h = { s with udp := (s.freeSlot tb h).udp, tcp := (s.freeSlot tb h).tcp } := by
  cases tb <;> rfl

theorem State.writeArpFrame_frame (s : State) (dst : Mac) (oper : Half) (tha : Mac) (tpa : IPv4) :
    s.writeArpFrame dst oper tha tpa = { s with buf := (s.writeArpFrame dst oper tha tpa).buf } := by
  simp only [State.writeArpFrame]

theorem State.writeIpHeader_frame (s : State) (mac : Mac) (dst : IPv4) (proto : Byte) (plen : Nat) :
    s.writeIpHeader mac dst proto plen = { s with buf := (s.writeIpHeader mac dst proto plen).buf } := by
  simp only [State.writeIpHeader]

/-- CLASSIFY writes OWN, the ARP cache and BUF alone (R190). -/
theorem State.classifyOutcome.frame {s u : State} (hu : s.classifyOutcome u) :
    u = { s with own := u.own, arp := u.arp, buf := u.buf } := by
  obtain ⟨ip, mac, hu⟩ := hu
  obtain ⟨cache, hl⟩ : ∃ cache, s.learn ip mac = { s with arp := cache } := ⟨_, (s.learn_frame ip mac).1⟩
  rw [hl] at hu
  obtain rfl | rfl | ⟨dst, oper, tha, tpa, rfl⟩ := hu
  · rfl
  · rfl
  · rw [State.writeArpFrame_frame]

/-- No command but RESET writes ARG, CMD, OVR, a configuration register, a constant or a field of the model's own. -/
theorem CommandEffect.frame {s u : State} {i : Instr} (e : CommandEffect s i u) (hi : i ≠ .reset) :
    u = { s with
      own := u.own, csumAcc := u.csumAcc, ipId := u.ipId
      arp := u.arp, udp := u.udp, tcp := u.tcp, appUdp := u.appUdp, appTcp := u.appTcp, buf := u.buf } := by
  cases e with
  | reset => exact absurd rfl hi
  | unchanged | bufWr | bufRelease | accumulate | arpTick | tcpSet => rfl
  | arpAdd => rw [(s.arpInsert_frame s.arg0 s.argMac).1]
  | classify hu => rw [hu.frame]
  | arpReq key => rw [State.writeArpFrame_frame]
  | ipTxHdr mac dst proto plen c => rw [State.memWrite, State.writeIpHeader_frame]
  | portOpen tb a j => rw [State.setApp_frame]
  | portClose tb j => rw [State.setApp_frame]
  | sessAdd tb e i => rw [State.newSess_frame]
  | sessRemove tb h => rw [State.freeSlot_frame]
  | sessRemoveWithPort tb h j => rw [State.setApp_frame, State.freeSlot_frame]

/-! ### The registers some commands write -/

/-- R29. -/
theorem CommandEffect.csumAcc {s u : State} {i : Instr} (e : CommandEffect s i u) (hi : i ≠ .reset) :
    u.csumAcc = s.csumAcc ∨ i ∈ [.csumInit, .csumAdd, .csumAddw, .csum] := by
  cases e with
  | reset => exact absurd rfl hi
  | accumulate i acc hmem => exact .inr hmem
  | classify hu => exact .inl (by rw [hu.frame])
  | arpAdd => exact .inl (by rw [(s.arpInsert_frame s.arg0 s.argMac).1])
  | _ => exact .inl (by simp)

/-- R28. -/
theorem CommandEffect.ipId {s u : State} {i : Instr} (e : CommandEffect s i u) (hi : i ≠ .reset) :
    u.ipId = s.ipId ∨ i = .ipTxHdr := by
  cases e with
  | reset => exact absurd rfl hi
  | ipTxHdr => exact .inr rfl
  | classify hu => exact .inl (by rw [hu.frame])
  | arpAdd => exact .inl (by rw [(s.arpInsert_frame s.arg0 s.argMac).1])
  | _ => exact .inl (by simp)

/-- R25. -/
theorem CommandEffect.own {s u : State} {i : Instr} (e : CommandEffect s i u) (hi : i ≠ .reset) :
    u.own = s.own ∨ i ∈ [.bufRelease, .classify, .arpReq, .ipTxHdr] := by
  cases e with
  | reset => exact absurd rfl hi
  | bufRelease | classify | arpReq | ipTxHdr => exact .inr (by simp)
  | arpAdd => exact .inl (by rw [(s.arpInsert_frame s.arg0 s.argMac).1])
  | _ => exact .inl (by simp)

/-- Settles O14: the frame of a command's effect, and the three registers some commands write; a report writes none of them. -/
theorem onlyNamedCommandsWriteEachRegister : Obligations.OnlyNamedCommandsWriteEachRegister := by
  intro i s t hi ht
  obtain ⟨u, c, r, he, rfl⟩ := exec_permits i s t ht
  have hcsum := he.csumAcc hi
  have hip := he.ipId hi
  have hown := he.own hi
  have hframe := he.frame hi
  rw [State.reporting, hframe]
  exact ⟨⟨rfl, rfl, rfl, rfl⟩, rfl, rfl, ⟨rfl, rfl, rfl, rfl⟩, hcsum, hip, hown, rfl, rfl, rfl, rfl, rfl⟩

end Sys2Proof.Machine
end

section
/-! PROOFS of the family `10_state`: STATUS (spec/10_state.md rules R24, R25, spec/30_encoding.md rule R87). -/

namespace Sys2Proof.Machine

/-- R24 bit by bit: where each field of STATUS stands; every other bit is 0. -/
theorem State.status_getLsbD (s : State) (k : Nat) :
    s.status.getLsbD k =
      if k = 0 then s.busy
      else if 4 ≤ k ∧ k < 8 then s.rc.code.getLsbD (k - 4)
      else if 8 ≤ k ∧ k < 10 then s.own.code.getLsbD (k - 8)
      else decide (k = 16) && s.ovr := by
  simp only [State.status, BitVec.getLsbD_append, BitVec.getLsbD_ofBool, BitVec.getLsbD_zero]
  simp only [Nat.sub_sub, Nat.reduceAdd]
  by_cases hbusy : k < 1
  · rw [if_pos hbusy, if_pos (by omega), decide_eq_true (by omega), Bool.true_and]
  rw [if_neg hbusy, if_neg (show ¬ k = 0 by omega)]
  by_cases hlow : k - 1 < 3
  · rw [if_pos hlow, if_neg (by omega), if_neg (by omega), decide_eq_false (by omega), Bool.false_and]
  rw [if_neg hlow]
  by_cases hrc : k - 4 < 4
  · rw [if_pos hrc, if_pos (by omega)]
  rw [if_neg hrc, if_neg (show ¬(4 ≤ k ∧ k < 8) by omega)]
  by_cases hown : k - 8 < 2
  · rw [if_pos hown, if_pos (by omega)]
  rw [if_neg hown, if_neg (show ¬(8 ≤ k ∧ k < 10) by omega)]
  by_cases hmid : k - 10 < 6
  · rw [if_pos hmid, decide_eq_false (by omega), Bool.false_and]
  rw [if_neg hmid]
  by_cases hovr : k - 16 < 1
  · rw [if_pos hovr, decide_eq_true (by omega), decide_eq_true (by omega)]
  · rw [if_neg hovr, decide_eq_false (by omega), Bool.false_and]

/-- R24: the bits that STATUS does not list read 0. -/
theorem State.status_unlisted (s : State) : s.status &&& 0xFFFEFC0E#32 = 0#32 := by
  apply BitVec.eq_of_getLsbD_eq
  intro k hk
  have hmask : ∀ k : Fin 32, (0xFFFEFC0E#32).getLsbD k = true →
      ¬(k.val = 0 ∨ (4 ≤ k.val ∧ k.val < 8) ∨ (8 ≤ k.val ∧ k.val < 10) ∨ k.val = 16) := by decide
  rw [BitVec.getLsbD_and, s.status_getLsbD, BitVec.getLsbD_zero, Bool.and_eq_false_iff]
  cases hm : (0xFFFEFC0E#32).getLsbD k with
  | false => exact .inr rfl
  | true =>
    obtain ⟨h0, h4, h8, h16⟩ := by simpa only [not_or] using hmask ⟨k, hk⟩ hm
    exact .inl (by rw [if_neg h0, if_neg h4, if_neg h8, decide_eq_false h16, Bool.false_and])

theorem State.status_rc (s : State) : s.status.extractLsb' 4 4 = s.rc.code := by
  apply BitVec.eq_of_getLsbD_eq
  intro k hk
  rw [BitVec.getLsbD_extractLsb', s.status_getLsbD]
  simp [hk, show 4 + k < 8 by omega]

theorem State.status_own (s : State) : s.status.extractLsb' 8 2 = s.own.code := by
  apply BitVec.eq_of_getLsbD_eq
  intro k hk
  rw [BitVec.getLsbD_extractLsb', s.status_getLsbD]
  simp [hk, show ¬ 8 + k < 8 by omega, show 8 + k < 10 by omega]

theorem State.status_busy (s : State) : s.status.getLsbD 0 = s.busy := by
  rw [s.status_getLsbD, if_pos rfl]

theorem State.status_ovr (s : State) : s.status.getLsbD 16 = s.ovr := by
  rw [s.status_getLsbD]
  simp

/-- R24: a host write of STATUS clears OVR when bit 16 is set, and does nothing else. -/
theorem State.hostWrite_status (s : State) (v : Word) :
    s.hostWrite .status v = .next { s with ovr := s.ovr && !v.getLsbD 16 } := by
  simp only [State.hostWrite, Reg.lockedWhileBusy, Bool.and_false, State.regWrite]
  cases v.getLsbD 16 <;> simp

/-- R24: RESET alone changes OVR, and clears it. -/
theorem exec_ovr {i : Instr} {s t : State} (h : exec i s = .next t) : t.ovr = if i = .reset then false else s.ovr := by
  split
  · next hi => subst hi; rw [complete_eq_next h]; rfl
  · next hi =>
    obtain ⟨-, -, hovr, -⟩ := onlyNamedCommandsWriteEachRegister i s t hi h
    exact hovr

/-- Settles O6: STATUS field by field, then the writers of its bits. -/
theorem statusRegisterBehaves : Obligations.StatusRegisterBehaves := by
  refine ⟨⟨rfl, rfl, rfl⟩, ⟨rfl, rfl, rfl, rfl, rfl, rfl, rfl⟩, fun s => ?_, fun s v rest hin => ?_,
    fun i s t h => exec_ovr h, fun s w => s.latch_rc w, rfl⟩
  · exact ⟨s.status_busy, s.status_rc, s.status_own, s.status_ovr, s.status_unlisted⟩
  · rw [step_hostWrite (off := 4) (by omega) rfl hin]
    exact State.hostWrite_status _ v

end Sys2Proof.Machine
end

section
/-! PROOFS of the family `10_state`: the tables as a reset leaves them (spec/10_state.md rule R39). -/

namespace Sys2Proof.Machine

/-- R39: every ARP and application slot is zero, and every session slot holds the sentinel. -/
structure State.TablesCleared (s : State) : Prop where
  arp : ∀ i, i < s.nArp → s.arpAt i = ArpSlot.empty
  sess : ∀ tb i, i < s.nSess tb → (s.sessAt tb i).socket = BitVec.ofNat 8 (s.nSess tb)
  app : ∀ tb j, j < s.nApp tb → s.appAt tb j = App.empty

/-- A list of equal elements, read with that element as the default. -/
theorem getD_replicate_self {α : Type} (n : Nat) (a : α) (i : Nat) : (List.replicate n a).getD i a = a := by
  rw [List.getD_eq_getElem?_getD, List.getElem?_replicate]
  split
  · rfl
  · rfl

/-- A table with every slot replaced by `a`, read with `a` as the default. -/
theorem getD_map_const {α β : Type} (l : List β) (a : α) (i : Nat) : (l.map fun _ => a).getD i a = a := by
  rw [List.map_const', getD_replicate_self]

theorem Session.free_socket (n : Nat) : (Session.free n).socket = BitVec.ofNat 8 n := rfl

theorem TcpSession.free_socket (n : Nat) : (TcpSession.free n).socket = BitVec.ofNat 8 n := rfl

/-- The parameters a block is built with are the parameters its state carries. -/
@[simp] theorem State.params_resetWith (p : Config.Params) : (State.resetWith p).params = p := by
  simp only [State.params, State.resetWith, State.nArp, State.nSess, State.nApp, List.length_replicate]

/-- R39: power-on clears the tables. -/
theorem State.tablesCleared_resetWith (p : Config.Params) : (State.resetWith p).TablesCleared where
  arp i _ := getD_replicate_self p.nArp ArpSlot.empty i
  sess tb i _ := by
    cases tb with
    | udp =>
      simp only [State.sessAt, State.udpAt, State.nSess, State.resetWith, List.length_replicate, getD_replicate_self,
        Session.free_socket]
    | tcp =>
      simp only [State.sessAt, State.tcpAt, State.nSess, State.resetWith, List.length_replicate, getD_replicate_self,
        TcpSession.free_socket]
  app tb j _ := by
    cases tb with
    | udp => exact getD_replicate_self p.nAppUdp App.empty j
    | tcp => exact getD_replicate_self p.nAppTcp App.empty j

/-- R300: RESET and a power cycle clear the tables. -/
theorem State.tablesCleared_clear (s : State) : s.clear.TablesCleared where
  arp i _ := getD_map_const s.arp ArpSlot.empty i
  sess tb i _ := by
    cases tb with
    | udp =>
      simp only [State.sessAt, State.udpAt, State.nSess, State.clear, List.getD_eq_getElem?_getD, List.getElem?_map,
        List.length_map]
      cases s.udp[i]? <;> rfl
    | tcp =>
      simp only [State.sessAt, State.tcpAt, State.nSess, State.clear, List.getD_eq_getElem?_getD, List.getElem?_map,
        List.length_map]
      cases s.tcp[i]? <;> rfl
  app tb j _ := by
    cases tb with
    | udp => exact getD_map_const s.appUdp App.empty j
    | tcp => exact getD_map_const s.appTcp App.empty j

/-- R39: STATUS after power-on, whatever the parameters. -/
theorem State.status_resetWith (p : Config.Params) : (State.resetWith p).status = 0#32 :=
  calc (State.resetWith p).status
    _ = State.reset.status := rfl
    _ = 0#32 := rfl

/-- Settles O19: the registers by computation, the capacities by `State.params`, the tables by `State.TablesCleared`. -/
theorem powerOnResetValues : Obligations.PowerOnResetValues := by
  refine ⟨?_, rfl⟩
  rintro p s rfl
  have hparams := State.params_resetWith p
  obtain ⟨harp, hsess, happ⟩ := State.tablesCleared_resetWith p
  exact ⟨⟨rfl, rfl, rfl, rfl⟩, rfl, ⟨rfl, rfl, rfl, rfl⟩, State.status_resetWith p, rfl, ⟨rfl, rfl, rfl, rfl⟩, rfl, rfl,
    congrArg (·.nArp) hparams, congrArg (·.nUdp) hparams, congrArg (·.nTcp) hparams, congrArg (·.nAppUdp) hparams,
    congrArg (·.nAppTcp) hparams, harp, hsess, happ⟩

end Sys2Proof.Machine
end

section
/-! PROOFS of the family `10_state`: the invariant (spec/10_state.md rule R37). It falls into the ranges of the
parameters, which no step changes, and one part each for the ARP cache, the session tables, the application tables and BUF;
each part depends on its own fields alone, so a write concerns one part. -/

namespace Sys2Proof.Machine

/-! ### The parts of the invariant -/

/-- R37 items 1 and 2: live addresses are distinct, a live ttl is in range, an empty slot is clear. -/
structure State.ArpInv (s : State) : Prop where
  unique : ∀ i j, i < s.nArp → j < s.nArp → (s.arpAt i).ip ≠ 0#32 → (s.arpAt i).ip = (s.arpAt j).ip → i = j
  liveTtl : ∀ i, i < s.nArp → (s.arpAt i).ip ≠ 0#32 →
    1 ≤ (s.arpAt i).ttl.toNat ∧ (s.arpAt i).ttl.toNat ≤ s.fixed.arpTtlMax.toNat
  emptyClear : ∀ i, i < s.nArp → (s.arpAt i).ip = 0#32 → (s.arpAt i).mac = 0#48 ∧ (s.arpAt i).ttl = 0#16

/-- R37 item 3: in-use sessions of one table have distinct tuples. -/
def State.SessInv (s : State) : Prop :=
  ∀ tb i j, s.inUse tb i = true → s.inUse tb j = true → (s.sessAt tb i).sameTuple (s.sessAt tb j) → i = j

/-- R37 item 4: the non-zero ports of one application table are distinct. -/
def State.AppInv (s : State) : Prop :=
  ∀ tb i j, i < s.nApp tb → j < s.nApp tb → (s.appAt tb i).port ≠ 0#16 → (s.appAt tb i).port = (s.appAt tb j).port → i = j

/-- BUF is canonical, and no byte at or past BUF_SIZE is written (R67). -/
structure State.BufInv (s : State) : Prop where
  canonical : Memory.wf s.buf = true
  bounded : ∀ c, c ∈ s.buf → c.1 < s.fixed.bufSize

/-- R7: all of a state's parameters are in range. -/
theorem State.params_inRange_iff (s : State) :
    s.params.inRange = true ↔ s.fixed.inRange = true ∧ capacityInRange s.nArp = true ∧
      (∀ tb, capacityInRange (s.nSess tb) = true) ∧ ∀ tb, capacityInRange (s.nApp tb) = true := by
  simp only [Config.Params.inRange, State.params, Bool.and_eq_true]
  constructor
  · rintro ⟨⟨⟨⟨⟨hf, ha⟩, hu⟩, ht⟩, hau⟩, hat⟩
    exact ⟨hf, ha, fun tb => by cases tb <;> assumption, fun tb => by cases tb <;> assumption⟩
  · rintro ⟨hf, ha, hs, hp⟩
    exact ⟨⟨⟨⟨⟨hf, ha⟩, hs .udp⟩, hs .tcp⟩, hp .udp⟩, hp .tcp⟩

/-- The invariant is the ranges of the parameters and its four parts. -/
theorem State.inv_iff (s : State) :
    s.Inv ↔ s.params.inRange = true ∧ s.ArpInv ∧ s.SessInv ∧ s.AppInv ∧ s.BufInv := by
  rw [s.params_inRange_iff]
  constructor
  · rintro ⟨hf, ha, hs, hp, hunique, httl, hclear, hsess, happ, hwf, hbuf⟩
    exact ⟨⟨hf, ha, hs, hp⟩, ⟨hunique, httl, hclear⟩, hsess, happ, ⟨hwf, hbuf⟩⟩
  · rintro ⟨⟨hf, ha, hs, hp⟩, ⟨hunique, httl, hclear⟩, hsess, happ, ⟨hwf, hbuf⟩⟩
    exact ⟨hf, ha, hs, hp, hunique, httl, hclear, hsess, happ, hwf, hbuf⟩

/-- ARP_TTL_MAX is at least 1, so an entry that is inserted or refreshed lives (R7). -/
theorem State.Inv.one_le_arpTtlMax {s : State} (h : s.Inv) : 1 ≤ s.fixed.arpTtlMax.toNat := by
  have hf := h.fixedInRange
  simp only [Config.Fixed.inRange, Bool.and_eq_true, decide_eq_true_eq] at hf
  omega

/-- Every frame the block builds fits in BUF (R7). -/
theorem State.Inv.bufSize_ge {s : State} (h : s.Inv) : 42 ≤ s.fixed.bufSize := by
  have hf := h.fixedInRange
  simp only [Config.Fixed.inRange, Bool.and_eq_true, decide_eq_true_eq] at hf
  omega

/-- The sentinel of a session table is its capacity, as an 8-bit number (R7, R31). -/
theorem sentinel_toNat {n : Nat} (h : capacityInRange n = true) : (BitVec.ofNat 8 n).toNat = n := by
  simp only [capacityInRange, Bool.and_eq_true, decide_eq_true_eq] at h
  rw [BitVec.toNat_ofNat]
  omega

/-! ### Each part depends on its own fields -/

theorem State.ArpInv.congr {s t : State} (h : s.ArpInv) (harp : t.arp = s.arp) (hfixed : t.fixed = s.fixed) : t.ArpInv := by
  obtain ⟨hunique, httl, hclear⟩ := h
  have hn : t.nArp = s.nArp := congrArg List.length harp
  have hat : ∀ i, t.arpAt i = s.arpAt i := State.arpAt_congr harp
  constructor
  · simpa only [hn, hat] using hunique
  · simpa only [hn, hat, hfixed] using httl
  · simpa only [hn, hat] using hclear

theorem State.BufInv.congr {s t : State} (h : s.BufInv) (hbuf : t.buf = s.buf) (hfixed : t.fixed = s.fixed) : t.BufInv :=
  ⟨by rw [hbuf]; exact h.canonical, by rw [hbuf, hfixed]; exact h.bounded⟩

theorem State.AppInv.congr {s t : State} (h : s.AppInv) (hudp : t.appUdp = s.appUdp) (htcp : t.appTcp = s.appTcp) :
    t.AppInv := by
  have hn : ∀ tb, t.nApp tb = s.nApp tb := fun tb => by cases tb <;> simp only [State.nApp, hudp, htcp]
  have hat : ∀ tb j, t.appAt tb j = s.appAt tb j := fun tb j => by cases tb <;> simp only [State.appAt, hudp, htcp]
  simpa only [State.AppInv, hn, hat] using h

/-- A state whose sessions in use were in use before, with the same fields, keeps the tuples distinct. -/
theorem State.SessInv.of_inUse_imp {s t : State} (h : s.SessInv)
    (himp : ∀ tb i, t.inUse tb i = true → s.inUse tb i = true ∧ t.sessAt tb i = s.sessAt tb i) : t.SessInv := by
  intro tb i j hi hj hsame
  obtain ⟨hi, hei⟩ := himp tb i hi
  obtain ⟨hj, hej⟩ := himp tb j hj
  rw [hei, hej] at hsame
  exact h tb i j hi hj hsame

theorem State.SessInv.congr {s t : State} (h : s.SessInv) (hudp : t.udp = s.udp) (htcp : t.tcp = s.tcp) : t.SessInv := by
  have hn : ∀ tb, t.nSess tb = s.nSess tb := fun tb => by cases tb <;> simp only [State.nSess, hudp, htcp]
  have hat : ∀ tb i, t.sessAt tb i = s.sessAt tb i := fun tb i => by
    cases tb <;> simp only [State.sessAt, State.udpAt, State.tcpAt, hudp, htcp]
  exact h.of_inUse_imp fun tb i hi => ⟨by simpa only [State.inUse, hn, hat] using hi, hat tb i⟩

/-- The invariant depends on the tables, BUF and the constants alone. -/
theorem State.Inv.congr {s t : State} (h : s.Inv)
    (htables : t.fixed = s.fixed ∧ t.arp = s.arp ∧ t.udp = s.udp ∧ t.tcp = s.tcp ∧ t.appUdp = s.appUdp ∧ t.appTcp = s.appTcp)
    (hbuf : t.buf = s.buf) : t.Inv := by
  obtain ⟨hparams, harpInv, hsessInv, happInv, hbufInv⟩ := s.inv_iff.1 h
  rw [← State.params_congr htables] at hparams
  obtain ⟨hfixed, harp, hudp, htcp, happUdp, happTcp⟩ := htables
  exact t.inv_iff.2 ⟨hparams, harpInv.congr harp hfixed, hsessInv.congr hudp htcp, happInv.congr happUdp happTcp,
    hbufInv.congr hbuf hfixed⟩

/-! ### Cleared tables -/

/-- Cleared tables meet every part of the invariant: no ARP slot is live, no session is in use, no port is registered. -/
theorem State.inv_of_tablesCleared {s : State} (hparams : s.params.inRange = true) (hcleared : s.TablesCleared)
    (hbuf : s.BufInv) : s.Inv := by
  obtain ⟨harp, hsess, happ⟩ := hcleared
  obtain ⟨-, -, hcap, -⟩ := s.params_inRange_iff.1 hparams
  have hfree : ∀ tb i, ¬ s.inUse tb i = true := by
    intro tb i hi
    obtain ⟨hlt, hsocket⟩ := (s.inUse_iff tb i).1 hi
    rw [hsess tb i hlt, sentinel_toNat (hcap tb)] at hsocket
    omega
  refine s.inv_iff.2 ⟨hparams, ⟨?_, ?_, ?_⟩, ?_, ?_, hbuf⟩
  · exact fun i _ hi _ hlive _ => absurd (by rw [harp i hi]; rfl) hlive
  · exact fun i hi hlive => absurd (by rw [harp i hi]; rfl) hlive
  · exact fun i hi _ => by rw [harp i hi]; exact ⟨rfl, rfl⟩
  · exact fun tb i _ hi _ _ => absurd hi (hfree tb i)
  · exact fun tb j _ hj _ hport _ => absurd (by rw [happ tb j hj]; rfl) hport

/-- Nothing written meets BUF's part of the invariant. -/
theorem State.bufInv_of_nil {s : State} (h : s.buf = []) : s.BufInv :=
  ⟨by rw [h]; rfl, by rw [h]; exact fun c hc => absurd hc List.not_mem_nil⟩

theorem State.inv_resetWith {p : Config.Params} (hp : p.inRange = true) : (State.resetWith p).Inv :=
  State.inv_of_tablesCleared (by rwa [State.params_resetWith]) (State.tablesCleared_resetWith p) (State.bufInv_of_nil rfl)

/-- Settles O17: the power-on state of any parameters in range, the defaults among them. -/
theorem resetMeetsInvariant : Obligations.ResetMeetsInvariant :=
  ⟨State.inv_resetWith rfl, fun _ hp => State.inv_resetWith hp⟩

/-- R300: RESET clears the tables and keeps BUF. -/
theorem State.Inv.clear {s : State} (h : s.Inv) : s.clear.Inv := by
  obtain ⟨hparams, -, -, -, hbuf⟩ := s.inv_iff.1 h
  exact State.inv_of_tablesCleared (by rwa [State.params_clear]) s.tablesCleared_clear (hbuf.congr rfl rfl)

/-- R301: a power cycle clears the tables and loses BUF. -/
theorem State.Inv.powerCycle {s : State} (h : s.Inv) : s.powerCycle.Inv := by
  obtain ⟨hparams, -⟩ := s.inv_iff.1 h
  obtain ⟨harp, hsess, happ⟩ := s.tablesCleared_clear
  exact State.inv_of_tablesCleared (by rwa [State.params_powerCycle]) ⟨harp, hsess, happ⟩ (State.bufInv_of_nil rfl)

/-! ### Writes to the ARP cache -/

/-- A slot after `ARP[j] <- e` is the slot written, or another one as it was. -/
theorem State.arpAt_setArp_cases {s : State} (j : Nat) (e : ArpSlot) {k : Nat} (hk : k < s.nArp) :
    (k = j ∧ (s.setArp j e).arpAt k = e) ∨ (k ≠ j ∧ (s.setArp j e).arpAt k = s.arpAt k) := by
  rw [s.arpAt_setArp j k e]
  by_cases hkj : k = j
  · exact .inl ⟨hkj, if_pos ⟨hkj.symm, hkj ▸ hk⟩⟩
  · exact .inr ⟨hkj, if_neg fun hjk => hkj hjk.1.symm⟩

/-- A live entry with a fresh ttl may stand in a slot when no other slot holds its address. -/
theorem State.ArpInv.setArp {s : State} (h : s.ArpInv) (hmax : 1 ≤ s.fixed.arpTtlMax.toNat) {j : Nat} {e : ArpSlot}
    (hlive : e.ip ≠ 0#32) (httl : e.ttl = s.fixed.arpTtlMax)
    (hnew : ∀ k, k < s.nArp → k ≠ j → (s.arpAt k).ip ≠ e.ip) : (s.setArp j e).ArpInv := by
  constructor
  · intro i k hi hk hne heq
    rw [State.nArp_setArp] at hi hk
    obtain ⟨hij, hati⟩ | ⟨hij, hati⟩ := State.arpAt_setArp_cases j e hi <;>
      obtain ⟨hkj, hatk⟩ | ⟨hkj, hatk⟩ := State.arpAt_setArp_cases j e hk <;>
      rw [hati] at hne heq <;> rw [hatk] at heq
    · rw [hij, hkj]
    · exact absurd heq.symm (hnew k hk hkj)
    · exact absurd heq (hnew i hi hij)
    · exact h.unique i k hi hk hne heq
  · intro i hi hne
    rw [State.nArp_setArp] at hi
    rw [State.setArp_fixed]
    obtain ⟨-, hat⟩ | ⟨-, hat⟩ := State.arpAt_setArp_cases j e hi
    · rw [hat, httl]; exact ⟨hmax, Nat.le_refl _⟩
    · rw [hat] at hne ⊢; exact h.liveTtl i hi hne
  · intro i hi hip
    rw [State.nArp_setArp] at hi
    obtain ⟨-, hat⟩ | ⟨-, hat⟩ := State.arpAt_setArp_cases j e hi
    · rw [hat] at hip; exact absurd hip hlive
    · rw [hat] at hip ⊢; exact h.emptyClear i hi hip

/-- R162: a refresh keeps the slot's address, and an insert follows a search that found no slot with it. -/
theorem State.ArpInv.arpInsert {s : State} (h : s.ArpInv) (hmax : 1 ≤ s.fixed.arpTtlMax.toNat) (ip : IPv4) (mac : Mac) :
    (s.arpInsert ip mac).1.ArpInv := by
  obtain ⟨-, hins⟩ | ⟨i, hip, ⟨hi, hat, -⟩, hins⟩ | ⟨j, hip, hno, -, hins⟩ | ⟨-, -, -, hins⟩ := s.arpInsert_cases ip mac
  · rw [hins]; exact h
  · rw [hins]
    have hi' : (s.arpAt i).ip ≠ 0#32 := by rw [hat]; exact hip
    exact h.setArp hmax hi' rfl fun k hk hki heq => hki (h.unique i k hi hk hi' heq.symm).symm
  · rw [hins]
    exact h.setArp hmax hip rfl fun k hk _ => hno k hk
  · rw [hins]; exact h

/-- R163. -/
theorem State.ArpInv.learn {s : State} (h : s.ArpInv) (hmax : 1 ≤ s.fixed.arpTtlMax.toNat) (ip : IPv4) (mac : Mac) :
    (s.learn ip mac).ArpInv := by
  simp only [State.learn]
  split
  · exact h
  · exact h.arpInsert hmax _ mac

/-- R168, all that a second does to a slot: nothing to an empty one, else it empties it or lowers a ttl that stays above 0. -/
theorem ArpSlot.tick_cases (e : ArpSlot) :
    (e.ip = 0#32 ∧ e.tick = e) ∨ e.tick = ArpSlot.empty ∨
    (e.ip ≠ 0#32 ∧ e.ttl - 1#16 ≠ 0#16 ∧ e.tick = { e with ttl := e.ttl - 1#16 }) := by
  by_cases hip : e.ip = 0#32
  · exact .inl ⟨hip, if_pos hip⟩
  · by_cases httl : e.ttl - 1#16 = 0#16
    · exact .inr (.inl ((if_neg hip).trans (if_pos httl)))
    · exact .inr (.inr ⟨hip, httl, (if_neg hip).trans (if_neg httl)⟩)

/-- A slot that is live after a tick was live before it, with the same address and a ttl greater by one. -/
theorem ArpSlot.tick_live {e : ArpSlot} (h : e.tick.ip ≠ 0#32) :
    e.tick.ip = e.ip ∧ (1 ≤ e.ttl.toNat → 1 ≤ e.tick.ttl.toNat ∧ e.tick.ttl.toNat ≤ e.ttl.toNat) := by
  obtain ⟨hip, ht⟩ | ht | ⟨-, httl, ht⟩ := e.tick_cases
  · rw [ht] at h; exact absurd hip h
  · rw [ht] at h; exact absurd rfl h
  · rw [ht]
    exact ⟨rfl, fun hpos => by bv_omega⟩

/-- A slot that is empty after a tick is clear, if it was clear when it was empty before. -/
theorem ArpSlot.tick_empty {e : ArpSlot} (h : e.tick.ip = 0#32) (hclear : e.ip = 0#32 → e.mac = 0#48 ∧ e.ttl = 0#16) :
    e.tick.mac = 0#48 ∧ e.tick.ttl = 0#16 := by
  obtain ⟨hip, ht⟩ | ht | ⟨hip, -, ht⟩ := e.tick_cases
  · rw [ht]; exact hclear hip
  · rw [ht]; exact ⟨rfl, rfl⟩
  · rw [ht] at h; exact absurd h hip

/-- R168. -/
theorem State.ArpInv.tick {s : State} (h : s.ArpInv) : ({ s with arp := s.arp.map ArpSlot.tick } : State).ArpInv := by
  obtain ⟨hunique, httl, hclear⟩ := h
  have hn : ({ s with arp := s.arp.map ArpSlot.tick } : State).nArp = s.nArp := List.length_map _
  constructor
  · intro i j hi hj hne heq
    rw [hn] at hi hj
    rw [s.arpAt_map_tick] at hne
    rw [s.arpAt_map_tick, s.arpAt_map_tick] at heq
    obtain ⟨hi', -⟩ := ArpSlot.tick_live hne
    obtain ⟨hj', -⟩ := ArpSlot.tick_live (heq ▸ hne)
    exact hunique i j hi hj (hi' ▸ hne) (by rw [← hi', ← hj', heq])
  · intro i hi hne
    rw [hn] at hi
    rw [s.arpAt_map_tick] at hne ⊢
    obtain ⟨hip, hdown⟩ := ArpSlot.tick_live hne
    obtain ⟨hpos, hle⟩ := httl i hi (hip ▸ hne)
    obtain ⟨hpos', hle'⟩ := hdown hpos
    exact ⟨hpos', Nat.le_trans hle' hle⟩
  · intro i hi hip
    rw [hn] at hi
    rw [s.arpAt_map_tick] at hip ⊢
    exact ArpSlot.tick_empty hip (hclear i hi)

/-! ### Writes to the session tables -/

/-- A session in use after R236's write is the new one, or was in use before and is as it was. -/
theorem State.inUse_newSess_cases {s : State} {tb u : Table} {i k : Nat} {e : Session}
    (hk : (s.newSess tb i e).inUse u k = true) :
    (u = tb ∧ k = i ∧ (s.newSess tb i e).sessAt u k = e) ∨
    (s.inUse u k = true ∧ (s.newSess tb i e).sessAt u k = s.sessAt u k) := by
  obtain ⟨hlt, hsocket⟩ := (State.inUse_iff _ u k).1 hk
  have hat := s.sessAt_newSess tb u i k e
  by_cases hik : tb = u ∧ i = k ∧ i < s.nSess tb
  · rw [if_pos hik] at hat
    exact .inl ⟨hik.1.symm, hik.2.1.symm, hat⟩
  · rw [if_neg hik] at hat
    rw [State.nSess_newSess] at hlt
    rw [hat] at hsocket
    exact .inr ⟨(s.inUse_iff u k).2 ⟨hlt, hsocket⟩, hat⟩

/-- R236: a new session's tuple is not yet in the table. -/
theorem State.SessInv.newSess {s : State} (h : s.SessInv) {tb : Table} {e : Session} (i : Nat)
    (hnew : NoIndex (s.nSess tb) (s.sessHolds tb e.remoteIp e.localPort e.remotePort)) : (s.newSess tb i e).SessInv := by
  have hclash : ∀ k, s.inUse tb k = true → ¬ e.sameTuple (s.sessAt tb k) := fun k hk ⟨hip, hlp, hrp⟩ =>
    hnew k ((s.inUse_iff tb k).1 hk).1 ⟨hk, hip.symm, hlp.symm, hrp.symm⟩
  intro u j k hj hk hsame
  obtain ⟨hu, hij, hatj⟩ | ⟨holdj, hatj⟩ := State.inUse_newSess_cases hj <;>
    obtain ⟨hu', hik, hatk⟩ | ⟨holdk, hatk⟩ := State.inUse_newSess_cases hk <;>
    rw [hatj, hatk] at hsame
  · rw [hij, hik]
  · subst hu
    exact absurd hsame (hclash k holdk)
  · subst hu'
    obtain ⟨hip, hlp, hrp⟩ := hsame
    exact absurd ⟨hip.symm, hlp.symm, hrp.symm⟩ (hclash j holdj)
  · exact h u j k holdj holdk hsame

/-- R237: a freed slot holds the sentinel, which is no slot's number. -/
theorem State.SessInv.freeSlot {s : State} (h : s.SessInv) {tb : Table} (hcap : capacityInRange (s.nSess tb) = true)
    (i : Nat) : (s.freeSlot tb i).SessInv := by
  refine h.of_inUse_imp fun u k hk => ?_
  obtain ⟨hlt, hsocket⟩ := (State.inUse_iff _ u k).1 hk
  rw [State.nSess_freeSlot] at hlt
  have hat := s.sessAt_setSess tb u i k { s.sessAt tb i with socket := BitVec.ofNat 8 (s.nSess tb) }
  change (s.freeSlot tb i).sessAt u k = _ at hat
  by_cases hik : tb = u ∧ i = k ∧ i < s.nSess tb
  · rw [if_pos hik] at hat
    obtain ⟨rfl, rfl, -⟩ := hik
    rw [hat, sentinel_toNat hcap] at hsocket
    omega
  · rw [if_neg hik] at hat
    rw [hat] at hsocket ⊢
    exact ⟨(s.inUse_iff u k).2 ⟨hlt, hsocket⟩, rfl⟩

/-- R240: TCP_SET leaves the fields both tables have. -/
theorem State.sessAt_tcpSet (s : State) (i : Nat) (e : TcpSession) (he : e.toSession = (s.tcpAt i).toSession)
    (tb : Table) (k : Nat) : ({ s with tcp := s.tcp.set i e } : State).sessAt tb k = s.sessAt tb k := by
  cases tb with
  | udp => rfl
  | tcp =>
    simp only [State.sessAt, State.tcpAt, List.length_set, getD_set]
    split
    · next hik => obtain ⟨rfl, -⟩ := hik; exact he
    · rfl

theorem State.SessInv.tcpSet {s : State} (h : s.SessInv) (i : Nat) (e : TcpSession)
    (he : e.toSession = (s.tcpAt i).toSession) : ({ s with tcp := s.tcp.set i e } : State).SessInv := by
  have hn : ∀ tb, ({ s with tcp := s.tcp.set i e } : State).nSess tb = s.nSess tb := fun tb => by
    cases tb <;> simp [State.nSess]
  have hat := s.sessAt_tcpSet i e he
  exact h.of_inUse_imp fun tb k hk => ⟨by simpa only [State.inUse, hn, hat] using hk, hat tb k⟩

/-! ### Writes to the application tables -/

/-- An application slot after `APP(T)[j] <- a` is the slot written, or as it was. -/
theorem State.appAt_setApp_cases (s : State) (tb u : Table) (j k : Nat) (a : App) :
    (u = tb ∧ k = j ∧ (s.setApp tb j a).appAt u k = a) ∨ (s.setApp tb j a).appAt u k = s.appAt u k := by
  rw [s.appAt_setApp tb u j k a]
  by_cases hjk : tb = u ∧ j = k ∧ j < s.nApp tb
  · exact .inl ⟨hjk.1.symm, hjk.2.1.symm, if_pos hjk⟩
  · exact .inr (if_neg hjk)

/-- A port may stand in a slot when the table does not hold it yet; port 0 may stand anywhere. -/
theorem State.AppInv.setApp {s : State} (h : s.AppInv) {tb : Table} {a : App} (j : Nat)
    (hnew : a.port ≠ 0#16 → ∀ k, k < s.nApp tb → (s.appAt tb k).port ≠ a.port) : (s.setApp tb j a).AppInv := by
  intro u i k hi hk hne heq
  rw [State.nApp_setApp] at hi hk
  obtain ⟨hu, hij, hati⟩ | hati := s.appAt_setApp_cases tb u j i a <;>
    obtain ⟨hu', hkj, hatk⟩ | hatk := s.appAt_setApp_cases tb u j k a <;>
    rw [hati] at hne heq <;> rw [hatk] at heq
  · rw [hij, hkj]
  · subst hu
    exact absurd heq.symm (hnew hne k hk)
  · subst hu'
    exact absurd heq (hnew (heq ▸ hne) i hi)
  · exact h u i k hi hk hne heq

/-- R234, R237: a slot may be emptied. -/
theorem State.AppInv.setApp_empty {s : State} (h : s.AppInv) (tb : Table) (j : Nat) : (s.setApp tb j App.empty).AppInv :=
  h.setApp j fun hne => absurd rfl hne

/-! ### Writes to BUF -/

/-- A range inside BUF may be written (R67). -/
theorem State.BufInv.setAll {s t : State} (h : s.BufInv) {off : Nat} {bs : List Byte}
    (hbuf : t.buf = Memory.setAll s.buf off bs) (hfixed : t.fixed = s.fixed) (hfits : off + bs.length ≤ s.fixed.bufSize) :
    t.BufInv := by
  constructor
  · rw [hbuf]; exact Memory.wf_setAll h.canonical off bs
  · intro c hc
    rw [hbuf] at hc
    rw [hfixed]
    obtain ⟨-, hlt⟩ | hold := Memory.mem_setAll hc
    · omega
    · exact h.bounded c hold

/-- R11, `MemWrite` inside BUF. -/
theorem State.BufInv.memWrite {s : State} (h : s.BufInv) {off n : Nat} (v : Nat) (hfits : off + n ≤ s.fixed.bufSize) :
    (s.memWrite off n v).BufInv :=
  h.setAll (s.memWrite_buf off n v) rfl (by rwa [beBytes_length])

/-- R195, R206: the 42-byte ARP frame. -/
theorem State.BufInv.writeArpFrame {s : State} (h : s.BufInv) (hsize : 42 ≤ s.fixed.bufSize) (dst : Mac) (oper : Half)
    (tha : Mac) (tpa : IPv4) : (s.writeArpFrame dst oper tha tpa).BufInv :=
  h.setAll (s.writeArpFrame_buf dst oper tha tpa) (s.writeArpFrame_fixed dst oper tha tpa)
    (by rw [State.arpFrameBytes_length]; omega)

/-- R207: the 34 bytes of the headers. -/
theorem State.BufInv.writeIpHeader {s : State} (h : s.BufInv) (hsize : 42 ≤ s.fixed.bufSize) (mac : Mac) (dst : IPv4)
    (proto : Byte) (plen : Nat) : (s.writeIpHeader mac dst proto plen).BufInv :=
  h.setAll (s.writeIpHeader_buf mac dst proto plen) (s.writeIpHeader_fixed mac dst proto plen)
    (by rw [State.ipHeaderBytes_length]; omega)

/-! ### Every effect of a command -/

/-- CLASSIFY learns a sender and stages at most one ARP frame (R190). -/
theorem State.Inv.of_classifyOutcome {s u : State} (h : s.Inv) (hu : s.classifyOutcome u) : u.ArpInv ∧ u.BufInv := by
  obtain ⟨-, harp, -, -, hbuf⟩ := s.inv_iff.1 h
  obtain ⟨ip, mac, hu⟩ := hu
  have hl := (s.learn_frame ip mac).1
  have hfixed : (s.learn ip mac).fixed = s.fixed := by rw [hl]
  have harp' := harp.learn h.one_le_arpTtlMax ip mac
  have hbuf' : (s.learn ip mac).BufInv := hbuf.congr (by rw [hl]) hfixed
  have hsize : 42 ≤ (s.learn ip mac).fixed.bufSize := by rw [hfixed]; exact h.bufSize_ge
  obtain rfl | rfl | ⟨dst, oper, tha, tpa, rfl⟩ := hu
  · exact ⟨harp', hbuf'⟩
  · exact ⟨harp'.congr rfl rfl, hbuf'.congr rfl rfl⟩
  · have hframe := (s.learn ip mac).writeArpFrame_frame dst oper tha tpa
    have hstaged := hbuf'.writeArpFrame hsize dst oper tha tpa
    generalize (s.learn ip mac).writeArpFrame dst oper tha tpa = staged at hframe hstaged
    exact ⟨harp'.congr (by rw [hframe]) (by rw [hframe]), hstaged.congr rfl rfl⟩

theorem CommandEffect.arpInv {s u : State} {i : Instr} (e : CommandEffect s i u) (h : s.Inv) : u.ArpInv := by
  obtain ⟨-, harp, -⟩ := s.inv_iff.1 h
  cases e with
  | reset => exact ⟨h.clear.arpUnique, h.clear.arpLiveTtl, h.clear.arpEmptyClear⟩
  | arpAdd => exact harp.arpInsert h.one_le_arpTtlMax _ _
  | arpTick => exact harp.tick
  | classify hu => exact (h.of_classifyOutcome hu).1
  | _ => exact harp.congr (by simp) (by simp)

theorem CommandEffect.sessInv {s u : State} {i : Instr} (e : CommandEffect s i u) (h : s.Inv) : u.SessInv := by
  obtain ⟨-, -, hsess, -⟩ := s.inv_iff.1 h
  cases e with
  | reset => exact h.clear.sessUnique
  | sessAdd tb e i hnew => exact hsess.newSess i hnew
  | sessRemove tb i => exact hsess.freeSlot (h.sessCapacity tb) i
  | sessRemoveWithPort tb i j => exact (hsess.freeSlot (h.sessCapacity tb) i).congr (by simp) (by simp)
  | tcpSet => exact hsess.tcpSet _ _ rfl
  | arpAdd => rw [(s.arpInsert_frame s.arg0 s.argMac).1]; exact hsess.congr rfl rfl
  | classify hu => rw [hu.frame]; exact hsess.congr rfl rfl
  | _ => exact hsess.congr (by simp) (by simp)

theorem CommandEffect.appInv {s u : State} {i : Instr} (e : CommandEffect s i u) (h : s.Inv) : u.AppInv := by
  obtain ⟨-, -, -, happ, -⟩ := s.inv_iff.1 h
  cases e with
  | reset => exact h.clear.appUnique
  | portOpen tb a j hnew => exact happ.setApp j fun hport k hk heq => hnew k hk ⟨hport, heq⟩
  | portClose tb j => exact happ.setApp_empty tb j
  | sessRemoveWithPort tb i j => exact (happ.congr (by simp) (by simp)).setApp_empty tb j
  | arpAdd => rw [(s.arpInsert_frame s.arg0 s.argMac).1]; exact happ.congr rfl rfl
  | classify hu => rw [hu.frame]; exact happ.congr rfl rfl
  | _ => exact happ.congr (by simp) (by simp)

theorem CommandEffect.bufInv {s u : State} {i : Instr} (e : CommandEffect s i u) (h : s.Inv) : u.BufInv := by
  obtain ⟨-, -, -, -, hbuf⟩ := s.inv_iff.1 h
  have hsize := h.bufSize_ge
  cases e with
  | bufWr hfits => exact hbuf.memWrite _ hfits
  | classify hu => exact (h.of_classifyOutcome hu).2
  | arpReq key =>
    have hstaged := hbuf.writeArpFrame hsize bcastMac 1#16 0#48 key
    generalize s.writeArpFrame bcastMac 1#16 0#48 key = staged at hstaged
    exact hstaged.congr rfl rfl
  | ipTxHdr mac dst proto plen c =>
    have hchecksum : 24 + 2 ≤ (s.writeIpHeader mac dst proto plen).fixed.bufSize := by
      rw [State.writeIpHeader_fixed]; omega
    have hstaged := (hbuf.writeIpHeader hsize mac dst proto plen).memWrite c.toNat hchecksum
    generalize (s.writeIpHeader mac dst proto plen).memWrite 24 2 c.toNat = staged at hstaged
    exact hstaged.congr rfl rfl
  | arpAdd => rw [(s.arpInsert_frame s.arg0 s.argMac).1]; exact hbuf.congr rfl rfl
  | reset => exact hbuf.congr rfl rfl
  | _ => exact hbuf.congr (by simp) (by simp)

/-! ### Every turn -/

/-- Every command keeps the invariant. -/
theorem exec_keepsInv {i : Instr} {s t : State} (h : s.Inv) (ht : exec i s = .next t) : t.Inv := by
  have hparams := exec_keepsParams i s t ht
  obtain ⟨hrange, -⟩ := s.inv_iff.1 h
  obtain ⟨u, c, r, he, rfl⟩ := exec_permits i s t ht
  have hu : u.Inv := u.inv_iff.2 ⟨hparams ▸ hrange, he.arpInv h, he.sessInv h, he.appInv h, he.bufInv h⟩
  exact hu.congr ⟨rfl, rfl, rfl, rfl, rfl, rfl⟩ rfl

theorem blockTurn_keepsInv {s t : State} (h : s.Inv) (ht : blockTurn s = .next t) : t.Inv := by
  obtain ⟨-, rfl⟩ | ⟨-, i, -, hi⟩ | ⟨-, -, rfl⟩ := blockTurn_cases ht
  · exact h
  · exact exec_keepsInv h hi
  · exact h.congr ⟨rfl, rfl, rfl, rfl, rfl, rfl⟩ rfl

/-- A host access writes no table and no byte of BUF (R66). -/
theorem hostTurn_keepsInv {a : HostAccess} {s t : State} (h : s.Inv) (ht : hostTurn a s = .next t) : t.Inv := by
  obtain ⟨off, -, -, -, rfl⟩ | ⟨off, v, -, -, -, -, rfl⟩ := hostTurn_cases ht
  · rw [State.hostRead_frame]; exact h.congr ⟨rfl, rfl, rfl, rfl, rfl, rfl⟩ rfl
  · rw [State.regWrite_frame]; exact h.congr ⟨rfl, rfl, rfl, rfl, rfl, rfl⟩ rfl

/-- Taking a turn off the list of inputs keeps the invariant. -/
theorem State.Inv.with_inputs {s : State} (h : s.Inv) (rest : List Input) : ({ s with inputs := rest } : State).Inv :=
  h.congr ⟨rfl, rfl, rfl, rfl, rfl, rfl⟩ rfl

/-- Settles O16: whoever's turn it is, the turn keeps the invariant. -/
theorem stepKeepsInvariant : Obligations.StepKeepsInvariant := by
  intro s t h ht
  obtain ⟨-, hb⟩ | ⟨rest, -, hb⟩ | ⟨a, rest, -, ha⟩ | ⟨rest, -, rfl⟩ := step_cases ht
  · exact blockTurn_keepsInv h hb
  · exact blockTurn_keepsInv (h.with_inputs rest) hb
  · exact hostTurn_keepsInv (h.with_inputs rest) ha
  · exact (h.with_inputs rest).powerCycle

end Sys2Proof.Machine
end

section
/-! PROOFS of the family `20_memory`: which commands write which table and which bytes of BUF (spec/20_memory.md rule R65,
spec/44_dispatcher.md rule R208, spec/45_sockets.md rule R242 item 3, spec/70_reset_and_hazards.md rule R301). Each is a case
split on `CommandEffect`; a report writes neither a table nor BUF. -/

namespace Sys2Proof.Machine

/-! ### The tables -/

/-- R208. -/
theorem CommandEffect.arp {s u : State} {i : Instr} (e : CommandEffect s i u) :
    u.arp = s.arp ∨ i ∈ [.reset, .arpAdd, .arpTick, .classify] := by
  cases e with
  | reset | arpAdd | arpTick | classify => exact .inr (by simp)
  | _ => exact .inl (by simp)

/-- R242 item 3: the commands for sessions, with T = 0. -/
theorem CommandEffect.udp {s u : State} {i : Instr} (e : CommandEffect s i u) :
    u.udp = s.udp ∨ i ∈ [.reset, .sessAdd .udp, .sessRemove .udp] := by
  cases e with
  | reset => exact .inr (by simp)
  | sessAdd tb | sessRemove tb | sessRemoveWithPort tb =>
    cases tb with
    | udp => exact .inr (by simp)
    | tcp => exact .inl rfl
  | arpAdd => exact .inl (by rw [(s.arpInsert_frame s.arg0 s.argMac).1])
  | classify hu => exact .inl (by rw [hu.frame])
  | _ => exact .inl (by simp)

/-- R242 item 3: the commands for sessions, with T = 1, and TCP_SET. -/
theorem CommandEffect.tcp {s u : State} {i : Instr} (e : CommandEffect s i u) :
    u.tcp = s.tcp ∨ i ∈ [.reset, .sessAdd .tcp, .sessRemove .tcp, .tcpSet] := by
  cases e with
  | reset | tcpSet => exact .inr (by simp)
  | sessAdd tb | sessRemove tb | sessRemoveWithPort tb =>
    cases tb with
    | udp => exact .inl rfl
    | tcp => exact .inr (by simp)
  | arpAdd => exact .inl (by rw [(s.arpInsert_frame s.arg0 s.argMac).1])
  | classify hu => exact .inl (by rw [hu.frame])
  | _ => exact .inl (by simp)

/-- R242 item 3: the commands for ports, with T = 0, and the removal of a session that closes its port. -/
theorem CommandEffect.appUdp {s u : State} {i : Instr} (e : CommandEffect s i u) :
    u.appUdp = s.appUdp ∨ i ∈ [.reset, .portOpen .udp, .portClose .udp, .sessRemove .udp] := by
  cases e with
  | reset => exact .inr (by simp)
  | portOpen tb | portClose tb | sessRemoveWithPort tb =>
    cases tb with
    | udp => exact .inr (by simp)
    | tcp => exact .inl rfl
  | arpAdd => exact .inl (by rw [(s.arpInsert_frame s.arg0 s.argMac).1])
  | classify hu => exact .inl (by rw [hu.frame])
  | _ => exact .inl (by simp)

/-- R242 item 3: the commands for ports, with T = 1, and the removal of a session that closes its port. -/
theorem CommandEffect.appTcp {s u : State} {i : Instr} (e : CommandEffect s i u) :
    u.appTcp = s.appTcp ∨ i ∈ [.reset, .portOpen .tcp, .portClose .tcp, .sessRemove .tcp] := by
  cases e with
  | reset => exact .inr (by simp)
  | portOpen tb | portClose tb | sessRemoveWithPort tb =>
    cases tb with
    | udp => exact .inl rfl
    | tcp => exact .inr (by simp)
  | arpAdd => exact .inl (by rw [(s.arpInsert_frame s.arg0 s.argMac).1])
  | classify hu => exact .inl (by rw [hu.frame])
  | _ => exact .inl (by simp)

/-! ### The bytes of BUF -/

/-- An ARP frame changes no byte at offset 42 or beyond (R88, R89). -/
theorem State.bufByte_writeArpFrame_of_le (s : State) (dst : Mac) (oper : Half) (tha : Mac) (tpa : IPv4) {a : Nat}
    (ha : 42 ≤ a) : (s.writeArpFrame dst oper tha tpa).bufByte a = s.bufByte a := by
  rw [State.bufByte_writeArpFrame, dif_neg (by simpa using ha)]

/-- The Ethernet and IPv4 headers change no byte at offset 34 or beyond (R88, R90). -/
theorem State.bufByte_writeIpHeader_of_le (s : State) (mac : Mac) (dst : IPv4) (proto : Byte) (plen : Nat) {a : Nat}
    (ha : 34 ≤ a) : (s.writeIpHeader mac dst proto plen).bufByte a = s.bufByte a := by
  rw [State.bufByte_writeIpHeader, dif_neg (by simpa using ha)]

theorem State.bufByte_learn (s : State) (ip : IPv4) (mac : Mac) (a : Nat) : (s.learn ip mac).bufByte a = s.bufByte a := by
  rw [(s.learn_frame ip mac).1]
  exact State.bufByte_congr rfl rfl a

/-- CLASSIFY changes bytes only when it stages a reply, which takes the buffer for sending, and then only the reply's 42
(R195). -/
theorem State.classifyOutcome.bufByte {s u : State} (hu : s.classifyOutcome u) (a : Nat) :
    u.bufByte a = s.bufByte a ∨ (u.own = .tx ∧ a < 42) := by
  obtain ⟨ip, mac, rfl | rfl | ⟨dst, oper, tha, tpa, rfl⟩⟩ := hu
  · exact .inl (s.bufByte_learn ip mac a)
  · exact .inl (s.bufByte_learn ip mac a)
  · obtain ha | ha := Nat.lt_or_ge a 42
    · exact .inr ⟨rfl, ha⟩
    · have hframe := (s.learn ip mac).bufByte_writeArpFrame_of_le dst oper tha tpa ha
      generalize (s.learn ip mac).writeArpFrame dst oper tha tpa = staged at hframe ⊢
      exact .inl (hframe.trans (s.bufByte_learn ip mac a))

/-- R65: the four commands that write BUF, each within its range; RESET is not one of them (R301). -/
theorem CommandEffect.bufByte {s u : State} {i : Instr} (e : CommandEffect s i u) (a : Nat) :
    u.bufByte a = s.bufByte a ∨
      (i = .bufWr ∧ s.arg0.toNat ≤ a ∧ a < s.arg0.toNat + s.arg1.toNat) ∨
      (i = .classify ∧ u.own = .tx ∧ a < 42) ∨ (i = .arpReq ∧ a < 42) ∨ (i = .ipTxHdr ∧ a < 34) := by
  cases e with
  | bufWr =>
    by_cases hrange : s.arg0.toNat ≤ a ∧ a < s.arg0.toNat + s.arg1.toNat
    · exact .inr (.inl ⟨rfl, hrange⟩)
    · exact .inl (by rw [State.bufByte_memWrite, if_neg hrange])
  | classify hu => exact (hu.bufByte a).imp_right fun hreply => .inr (.inl ⟨rfl, hreply⟩)
  | arpReq key =>
    obtain ha | ha := Nat.lt_or_ge a 42
    · exact .inr (.inr (.inr (.inl ⟨rfl, ha⟩)))
    · have hframe := s.bufByte_writeArpFrame_of_le bcastMac 1#16 0#48 key ha
      generalize s.writeArpFrame bcastMac 1#16 0#48 key = staged at hframe ⊢
      exact .inl hframe
  | ipTxHdr mac dst proto plen c =>
    obtain ha | ha := Nat.lt_or_ge a 34
    · exact .inr (.inr (.inr (.inr ⟨rfl, ha⟩)))
    · have hchecksum := (s.writeIpHeader mac dst proto plen).bufByte_memWrite 24 2 c.toNat a
      rw [if_neg (by omega), s.bufByte_writeIpHeader_of_le mac dst proto plen ha] at hchecksum
      generalize (s.writeIpHeader mac dst proto plen).memWrite 24 2 c.toNat = staged at hchecksum ⊢
      exact .inl hchecksum
  | arpAdd =>
    rw [(s.arpInsert_frame s.arg0 s.argMac).1]
    exact .inl (State.bufByte_congr rfl rfl a)
  | reset => exact .inl (State.bufByte_congr rfl rfl a)
  | _ => exact .inl (State.bufByte_congr (by simp) (by simp) a)

/-- Settles O15: what a command's effect does to each table and to BUF, none of which its report writes. -/
theorem onlyNamedCommandsWriteTablesAndBuffer : Obligations.OnlyNamedCommandsWriteTablesAndBuffer := by
  intro i s t ht
  obtain ⟨u, c, r, he, rfl⟩ := exec_permits i s t ht
  exact ⟨he.arp, he.udp, he.tcp, he.appUdp, he.appTcp, he.bufByte⟩

end Sys2Proof.Machine
end

section
/-! PROOFS of the family `30_encoding`: the decoder (spec/30_encoding.md rules R81-R83). A command word is T and an 8-bit OP, and
a row of the opcode map fixes the OP, and T unless the row leaves it free; so the row that a word selects, together with the
word's T, gives the whole word back. -/

namespace Sys2Proof

/-! ### The T bit of a word -/

/-- R81: T stands in bit 8. -/
theorem tableBits_tableOf (w : Word) : tableBits (tableOf w) = w &&& 0x100#32 := by
  rw [show 0x100#32 = BitVec.twoPow 32 8 from rfl, BitVec.and_twoPow, tableOf]
  cases w.getLsbD 8 <;> rfl

/-- A mask splits a word in two parts. -/
theorem and_not_or_and_self (w m : Word) : (w &&& ~~~m) ||| (w &&& m) = w := by
  rw [← BitVec.and_or_distrib_left, BitVec.or_comm, BitVec.or_not_self, BitVec.and_allOnes]

/-- A mask that tests every bit, except perhaps T, and the word's T together keep the whole word. -/
theorem tableBits_or_masked {m : Word} (h : ~~~m &&& 0x100#32 = ~~~m) (w : Word) :
    (tableBits (tableOf w) &&& ~~~m) ||| (w &&& m) = w := by
  rw [tableBits_tableOf, BitVec.and_assoc, BitVec.and_comm 0x100#32, h, and_not_or_and_self]

/-! ### The rows of the opcode map -/

/-- R82, row by row: a row tests every bit, except perhaps T, and its command's word has the row's fixed bits and takes its free
bit from T. -/
theorem opcodeRows_encode (t : Table) : ∀ r ∈ opcodeRows,
    ~~~r.mask &&& 0x100#32 = ~~~r.mask ∧ encode (r.make t) = (tableBits t &&& ~~~r.mask) ||| r.mat := by
  cases t <;> decide

/-- A word that selects a row is the word of the row's command. -/
theorem encode_of_selects {r : OpcodeRow} {w : Word} (hr : r ∈ opcodeRows) (hw : r.selects w = true) :
    encode (r.make (tableOf w)) = w := by
  obtain ⟨hmask, henc⟩ := opcodeRows_encode (tableOf w) r hr
  have hmat : w &&& r.mask = r.mat := by simpa only [OpcodeRow.selects, beq_iff_eq] using hw
  rw [henc, ← hmat, tableBits_or_masked hmask]

/-- R82: a word decodes to a command exactly when it selects a row. -/
theorem exists_decode_iff_selects (w : Word) : (∃ i, decode w = .ok i) ↔ ∃ r ∈ opcodeRows, r.selects w = true := by
  rw [← List.find?_isSome, decode]
  cases opcodeRows.find? (fun r => r.selects w) <;> simp

/-! ### Decode and encode -/

/-- A word that decodes to a command is the command's word. -/
theorem eq_encode_of_decode {w : Word} {i : Instr} (h : decode w = .ok i) : w = encode i := by
  rw [decode] at h
  split at h
  · next r hfind =>
    cases h
    have hsel := List.find?_some hfind
    exact (encode_of_selects (List.mem_of_find?_eq_some hfind) hsel).symm
  · cases h

/-- R82: every command survives the round trip. -/
theorem decode_encode (i : Instr) : decode (encode i) = .ok i := by
  cases i with
  | nop => exact Laws.RoundTrip.nop
  | reset => exact Laws.RoundTrip.reset
  | bufRd => exact Laws.RoundTrip.bufRd
  | bufWr => exact Laws.RoundTrip.bufWr
  | bufRelease => exact Laws.RoundTrip.bufRelease
  | csumInit => exact Laws.RoundTrip.csumInit
  | csumAdd => exact Laws.RoundTrip.csumAdd
  | csumAddw => exact Laws.RoundTrip.csumAddw
  | csumFinal => exact Laws.RoundTrip.csumFinal
  | csum => exact Laws.RoundTrip.csum
  | arpAdd => exact Laws.RoundTrip.arpAdd
  | arpGet => exact Laws.RoundTrip.arpGet
  | arpResolve => exact Laws.RoundTrip.arpResolve
  | arpTick => exact Laws.RoundTrip.arpTick
  | arpStat => exact Laws.RoundTrip.arpStat
  | arpSlot => exact Laws.RoundTrip.arpSlot
  | classify => exact Laws.RoundTrip.classify
  | arpReq => exact Laws.RoundTrip.arpReq
  | ipTxHdr => exact Laws.RoundTrip.ipTxHdr
  | portOpen t => exact Laws.RoundTrip.portOpen t
  | portClose t => exact Laws.RoundTrip.portClose t
  | portFind t => exact Laws.RoundTrip.portFind t
  | sessAdd t => exact Laws.RoundTrip.sessAdd t
  | sessRemove t => exact Laws.RoundTrip.sessRemove t
  | sessGet t => exact Laws.RoundTrip.sessGet t
  | sessLookup t => exact Laws.RoundTrip.sessLookup t
  | tcpSet => exact Laws.RoundTrip.tcpSet
  | tcpGet => exact Laws.RoundTrip.tcpGet

/-- Settles O2: the row a word selects gives the word back, and every command survives the round trip. -/
theorem decodeInvertsEncodeExactly : Obligations.DecodeInvertsEncodeExactly :=
  fun _ i => ⟨eq_encode_of_decode, fun h => h ▸ decode_encode i⟩

/-- Settles O1: by O2 each line of the map says that a command's encoding is the word listed, which is a comparison of words. -/
theorem opcodeMapWordsDecode : Obligations.OpcodeMapWordsDecode := by
  simp only [Obligations.OpcodeMapWordsDecode, decodeInvertsEncodeExactly _ _]
  decide

/-! ### The grounds of R83 -/

/-- A command's word passes the checks of R83. -/
theorem commandWordWf_encode (i : Instr) : commandWordWf (encode i) = true := by
  cases i with
  | portOpen t | portClose t | portFind t | sessAdd t | sessRemove t | sessGet t | sessLookup t => cases t <;> decide
  | _ => decide

/-- R81: with the reserved bits clear, a word is its T and its OP. -/
theorem tableBits_or_op {w : Word} (h : reservedClear w = true) : tableBits (tableOf w) ||| (w &&& 0xFF#32) = w := by
  have hlow : w &&& 0x1FF#32 = w := by
    apply BitVec.eq_of_toNat_eq
    have hlt : w.toNat < 2 ^ 9 := by simpa only [reservedClear, decide_eq_true_eq] using h
    rw [BitVec.toNat_and, show (0x1FF#32).toNat = 2 ^ 9 - 1 from rfl, Nat.and_two_pow_sub_one_eq_mod, Nat.mod_eq_of_lt hlt]
  rw [tableBits_tableOf, ← BitVec.and_or_distrib_left]
  exact hlow

/-- R82: the OPs of the rows, in the order of the map. -/
theorem opcodeRows_ops : opcodeRows.map (fun r => (r.mat &&& 0xFF#32).toNat) =
    [0x00, 0x01, 0x10, 0x11, 0x12, 0x20, 0x21, 0x22, 0x23, 0x24, 0x30, 0x31, 0x32, 0x33, 0x34, 0x35, 0x40, 0x41, 0x42,
      0x50, 0x51, 0x52, 0x53, 0x54, 0x55, 0x56, 0x57, 0x58] := by
  decide

/-- R83: an OP outside the ranges that are not assigned is the OP of some row. -/
theorem exists_row_of_opAssigned {w : Word} (h : opAssigned w = true) :
    ∃ r ∈ opcodeRows, w &&& 0xFF#32 = r.mat &&& 0xFF#32 := by
  have hop : (w &&& 0xFF#32).toNat = w.toNat % 2 ^ 8 := by
    rw [BitVec.toNat_and, show (0xFF#32).toNat = 2 ^ 8 - 1 from rfl, Nat.and_two_pow_sub_one_eq_mod]
  simp only [opAssigned, ← hop, Bool.not_eq_true', Bool.or_eq_false_iff, Bool.and_eq_false_iff, decide_eq_false_iff_not] at h
  have hmem : (w &&& 0xFF#32).toNat ∈ opcodeRows.map (fun r => (r.mat &&& 0xFF#32).toNat) := by
    simp only [opcodeRows_ops, List.mem_cons, List.not_mem_nil, or_false]
    omega
  obtain ⟨r, hr, heq⟩ := List.mem_map.1 hmem
  exact ⟨r, hr, (BitVec.eq_of_toNat_eq heq).symm⟩

/-- R83, row by row: a word with a row's OP and an allowed T selects the row. -/
theorem opcodeRows_selects (t : Table) : ∀ r ∈ opcodeRows,
    tableBitAllowed (tableBits t ||| (r.mat &&& 0xFF#32)) = true → r.selects (tableBits t ||| (r.mat &&& 0xFF#32)) = true := by
  cases t <;> decide

/-- R83: the well-formed words are exactly those that decode to a command. -/
theorem commandWordWf_iff_decode (w : Word) : commandWordWf w = true ↔ ∃ i, decode w = .ok i := by
  constructor
  · intro h
    obtain ⟨⟨hclear, hop⟩, ht⟩ : (reservedClear w = true ∧ opAssigned w = true) ∧ tableBitAllowed w = true := by
      simpa only [commandWordWf, Bool.and_eq_true] using h
    obtain ⟨r, hr, heq⟩ := exists_row_of_opAssigned hop
    have hw : tableBits (tableOf w) ||| (r.mat &&& 0xFF#32) = w := heq ▸ tableBits_or_op hclear
    have hsel := opcodeRows_selects (tableOf w) r hr
    rw [hw] at hsel
    exact (exists_decode_iff_selects w).2 ⟨r, hr, hsel ht⟩
  · rintro ⟨i, hi⟩
    rw [eq_encode_of_decode hi]
    exact commandWordWf_encode i

end Sys2Proof
end

section
/-! PROOFS of the family `30_encoding`: the register map (spec/30_encoding.md rule R80, spec/20_memory.md rule R66). Each list of
offsets in the statements is a list of registers, mapped by `Reg.offset`; so what an access does is said once per register. -/

namespace Sys2Proof.Machine

/-! ### Offsets -/

/-- The offset the assembler writes for a register is the one the block decodes to it (R80). -/
theorem Reg.ofOffset_offset (r : Reg) : Reg.ofOffset r.offset = r := by cases r <;> rfl

theorem Reg.offset_lt (r : Reg) : r.offset < 256 := by cases r <;> decide

theorem Reg.offset_mod (r : Reg) : r.offset % 4 = 0 := by cases r <;> decide

/-- A step at the host's turn that writes the register `r`. -/
theorem step_writeReg {s : State} {r : Reg} {v : Word} {rest : List Input} (hi : s.inputs = asmWr s.fixed.base r v :: rest) :
    step s = ({ s with inputs := rest } : State).hostWrite r v := by
  rw [step_hostWrite r.offset_lt r.offset_mod hi, r.ofOffset_offset]

/-! ### Reads -/

/-- The registers of the map that are not reserved, in the order of R80. -/
def mappedRegs : List Reg :=
  [.cmd, .status, .arg0, .arg1, .arg2, .arg3, .res0, .res1, .res2, .res3, .macHi, .macLo, .localIp, .netmask, .gateway,
    .ipId, .csumAcc, .caps0, .caps1, .caps2]

/-- The offsets whose reads are free while BUSY = 1 (R303, U2). -/
def unsettledOffsets : List Nat := [0x18, 0x1C, 0x20, 0x24, 0x3C, 0x40]

theorem Reg.offset_mem_unsettledOffsets (r : Reg) : r.offset ∈ unsettledOffsets ↔ r.unsettledWhileBusy = true := by
  cases r <;> decide

theorem State.hostRead_unsettled {s : State} {r : Reg} (hb : s.busy = true) (hr : r.unsettledWhileBusy = true) :
    s.hostRead r = { s with readData := some (Config.busyRead s.freeReads), freeReads := s.freeReads + 1 } := by
  rw [State.hostRead, hb, hr]
  rfl

theorem State.hostRead_settled {s : State} {r : Reg} (h : s.busy = false ∨ r.unsettledWhileBusy = false) :
    s.hostRead r = { s with readData := some (s.regValue r) } := by
  have hfree : (s.busy && r.unsettledWhileBusy) = false := by simpa only [Bool.and_eq_false_iff] using h
  rw [State.hostRead, hfree]
  rfl

/-- What a read returns does not depend on the turns still to come. -/
theorem State.hostRead_with_inputs (s : State) (rest : List Input) (r : Reg) :
    ({ s with inputs := rest } : State).hostRead r = { s.hostRead r with inputs := rest } := by
  have hvalue : ({ s with inputs := rest } : State).regValue r = s.regValue r := by cases r <;> rfl
  simp only [State.hostRead, hvalue]
  split <;> rfl

/-- A step at the host's turn that reads the register `r`. -/
theorem step_readReg {s : State} {r : Reg} {rest : List Input} (hi : s.inputs = asmRd s.fixed.base r :: rest) :
    step s = .next { s.hostRead r with inputs := rest } := by
  rw [step_hostRead r.offset_lt r.offset_mod hi, r.ofOffset_offset, s.hostRead_with_inputs]

/-- Settles O8: the free reads, the reads of the registers of the map, and the reads of the reserved offsets. -/
theorem hostReadReturnsTheMappedRegister : Obligations.HostReadReturnsTheMappedRegister := by
  refine ⟨fun s off rest hb hoff hi => ?_, fun s off v rest hmap hsettled hi => ?_⟩
  · obtain ⟨r, -, rfl⟩ : ∃ r ∈ [Reg.res0, .res1, .res2, .res3, .ipId, .csumAcc], r.offset = off := List.mem_map.1 hoff
    have hfree := r.offset_mem_unsettledOffsets.1 hoff
    exact ⟨_, by rw [step_readReg hi, State.hostRead_unsettled hb hfree]⟩
  · rw [halfWord_eq, halfWord_eq] at hmap
    obtain hmem | ⟨hlow, hhigh, hmod, rfl⟩ := hmap
    · obtain ⟨r, -, hr⟩ : ∃ r ∈ mappedRegs, (r.offset, s.regValue r) = (off, v) := List.mem_map.1 hmem
      cases hr
      have hr : s.busy = false ∨ r.unsettledWhileBusy = false :=
        hsettled.imp_right fun hoff => Bool.eq_false_iff.2 fun h => hoff (r.offset_mem_unsettledOffsets.2 h)
      rw [step_readReg hi, State.hostRead_settled hr]
    · rw [step_hostRead hhigh hmod hi, Reg.ofOffset_reserved hlow, State.hostRead_settled (.inr rfl)]
      rfl

/-! ### Writes -/

/-- The registers that ignore a host write (R66, R80). -/
def readOnlyRegs : List Reg := [.res0, .res1, .res2, .res3, .ipId, .csumAcc, .caps0, .caps1, .caps2]

/-- The operand and configuration registers, and CMD: the registers a host write stores in while BUSY = 0 (R21, R22, R27). -/
def writableRegs : List Reg := [.cmd, .arg0, .arg1, .arg2, .arg3, .macHi, .macLo, .localIp, .netmask, .gateway]

/-- A write to a read-only or reserved register changes nothing, BUSY or not (R66, log 8). -/
theorem State.hostWrite_readOnly (s : State) {r : Reg} (v : Word) (h : r ∈ readOnlyRegs ∨ r = .reserved) :
    s.hostWrite r v = .next s := by
  obtain ⟨hlock, hsame⟩ : r.lockedWhileBusy = false ∧ s.regWrite r v = s := by
    cases r with
    | res0 | res1 | res2 | res3 | ipId | csumAcc | caps0 | caps1 | caps2 | reserved => exact ⟨rfl, rfl⟩
    | _ => exact absurd h (by decide)
  rw [State.hostWrite, hlock, hsame, Bool.and_false]
  rfl

/-- While BUSY = 0 no register is locked. -/
theorem State.hostWrite_idle {s : State} (hb : s.busy = false) (r : Reg) (v : Word) :
    s.hostWrite r v = .next (s.regWrite r v) := by
  rw [State.hostWrite, hb]
  rfl

/-- While BUSY = 0 a CMD write latches the command (R22, R40). -/
theorem State.regWrite_cmd_idle {s : State} (hb : s.busy = false) (v : Word) : s.regWrite .cmd v = s.latch v := by
  rw [State.regWrite, hb]
  rfl

/-- What a write stores does not depend on the turns still to come. -/
theorem State.regWrite_with_inputs (s : State) (rest : List Input) (r : Reg) (v : Word) :
    ({ s with inputs := rest } : State).regWrite r v = { s.regWrite r v with inputs := rest } := by
  cases r with
  | cmd | status => simp only [State.regWrite]; split <;> rfl
  | _ => rfl

/-- While BUSY = 0 a register write stores the value and takes its turn off the list. -/
theorem step_writeReg_idle {s : State} {r : Reg} {v : Word} {rest : List Input} (hb : s.busy = false)
    (hi : s.inputs = asmWr s.fixed.base r v :: rest) : step s = .next { s.regWrite r v with inputs := rest } := by
  rw [step_writeReg hi, State.hostWrite_idle (s := { s with inputs := rest }) hb, s.regWrite_with_inputs]

/-- Settles O9: the writes that store or start a command, and the writes that are ignored. -/
theorem hostWriteStoresStartsOrIsIgnored : Obligations.HostWriteStoresStartsOrIsIgnored := by
  refine ⟨fun s u off v rest hmem hb hi => ?_, fun s off v rest hoff hi => ?_⟩
  · have hcmd : ({ s with cmd := v, busy := true } : State) = s.regWrite .cmd v := (State.regWrite_cmd_idle hb v).symm
    rw [hcmd] at hmem
    obtain ⟨r, -, hr⟩ : ∃ r ∈ writableRegs, (r.offset, s.regWrite r v) = (off, u) := List.mem_map.1 hmem
    cases hr
    exact step_writeReg_idle hb hi
  · obtain hro | ⟨hlow, hhigh, hmod⟩ := hoff
    · obtain ⟨r, hr, rfl⟩ : ∃ r ∈ readOnlyRegs, r.offset = off := List.mem_map.1 hro
      rw [step_writeReg hi, State.hostWrite_readOnly _ v (.inl hr)]
    · rw [step_hostWrite hhigh hmod hi, Reg.ofOffset_reserved hlow, State.hostWrite_readOnly _ v (.inr rfl)]

end Sys2Proof.Machine
end

section
/-! PROOFS of the family `30_encoding`: the block's turn and the assembler's command statement (spec/30_encoding.md rules R83, R97,
R98). A command statement is a run of register writes, the block's turn and one read; the run takes them one at a time. -/

namespace Sys2Proof.Machine

/-! ### The block's turn -/

/-- With no turn given the block moves (U6). -/
theorem step_of_inputs_nil {s : State} (hi : s.inputs = []) : step s = blockTurn s := by
  simp only [step, nextTurn, hi]

theorem step_of_blockRuns {s : State} {rest : List Input} (hi : s.inputs = .blockRuns :: rest) :
    step s = blockTurn { s with inputs := rest } := by
  simp only [step, nextTurn, hi, takeTurn]

/-- R270: the block runs the pending command. -/
theorem blockTurn_of_decode {s : State} {i : Instr} (hb : s.busy = true) (hd : decode s.cmd = .ok i) :
    blockTurn s = exec i s := by
  simp only [blockTurn, State.pending, hb, if_true, runCommand, hd]

/-- R83: a pending word that decodes to no command raises ILLEGAL. -/
theorem blockTurn_of_not_wf {s : State} (hb : s.busy = true) (hwf : commandWordWf s.cmd = false) :
    blockTurn s = .next { s with rc := .illegal, busy := false } := by
  cases hd : decode s.cmd with
  | ok i => exact absurd ((commandWordWf_iff_decode s.cmd).2 ⟨i, hd⟩) (Bool.eq_false_iff.1 hwf)
  | error e => simp only [blockTurn, State.pending, hb, if_true, runCommand, hd, raise]

/-- Settles O3: the checks of R83 are the decoder's, and the block's turn on a word that fails them. -/
theorem reservedWordsRaiseIllegal : Obligations.ReservedWordsRaiseIllegal := by
  refine ⟨commandWordWf_iff_decode, fun s hb hwf => ⟨fun hi => ?_, fun rest hi => ?_⟩⟩
  · rw [step_of_inputs_nil hi, blockTurn_of_not_wf hb hwf]
  · rw [step_of_blockRuns hi, blockTurn_of_not_wf (s := { s with inputs := rest }) hb hwf]

/-! ### Every command completes -/

/-- R270: a next state with BUSY = 0. -/
def Completes (o : Host.Outcome State Fault Refusal) : Prop := ∃ t, o = .next t ∧ t.busy = false

/-- R270: every path of every command ends in `complete` or `raise`. The commands are grouped by how their tests nest. -/
theorem exec_completes (i : Instr) (s : State) : Completes (exec i s) := by
  cases i with
  | nop | reset | bufRelease | csumInit | csumAddw | csumFinal | arpResolve | arpTick | arpStat => exact ⟨_, rfl, rfl⟩
  | bufRd | bufWr | csumAdd | csum | arpGet | arpSlot | sessGet | sessLookup | tcpGet =>
    simp only [exec, execBufRd, execBufWr, execCsumAdd, execCsum, execArpGet, execArpSlot, execSessGet, execSessLookup,
      execTcpGet]
    split <;> exact ⟨_, rfl, rfl⟩
  | arpAdd | classify | arpReq | ipTxHdr | portClose | portFind | sessAdd | tcpSet =>
    simp only [exec, execArpAdd, execClassify, execArpReq, execIpTxHdr, execPortClose, execPortFind, execSessAdd, execTcpSet]
    split
    · exact ⟨_, rfl, rfl⟩
    · split <;> exact ⟨_, rfl, rfl⟩
  | sessRemove =>
    simp only [exec, execSessRemove]
    split
    · split <;> exact ⟨_, rfl, rfl⟩
    · exact ⟨_, rfl, rfl⟩
  | portOpen =>
    simp only [exec, execPortOpen]
    split
    · exact ⟨_, rfl, rfl⟩
    · split
      · exact ⟨_, rfl, rfl⟩
      · split <;> exact ⟨_, rfl, rfl⟩

/-! ### Runs -/

/-- A run takes its first step, then the others. -/
theorem run_succ {s t : State} (h : step s = .next t) (k : Nat) :
    Host.Core.run core (k + 1) s = Host.Core.run core k t := by
  simp only [Host.Core.run, core, h]

/-- The state after the host has written the given registers in turn. -/
def State.writeRegs (s : State) (ws : List (Reg × Word)) : State := ws.foldl (fun u p => u.regWrite p.1 p.2) s

/-- Only a CMD write sets BUSY. -/
theorem State.regWrite_busy {s : State} {r : Reg} (v : Word) (hr : r ≠ .cmd) : (s.regWrite r v).busy = s.busy := by
  cases r with
  | cmd => exact absurd rfl hr
  | status => simp only [State.regWrite]; split <;> rfl
  | _ => rfl

/-- With no command pending, a step takes one register write. -/
theorem step_asmWr {s : State} {base : Nat} (hb : s.busy = false) (hbase : s.fixed.base = base) (r : Reg) (v : Word)
    (rest : List Input) :
    step { s with inputs := asmWr base r v :: rest } = .next { s.regWrite r v with inputs := rest } := by
  subst hbase
  rw [step_writeReg_idle (s := { s with inputs := asmWr s.fixed.base r v :: rest }) hb rfl, s.regWrite_with_inputs]

/-- With no command pending, a run takes register writes one after the other. -/
theorem run_writes {base : Nat} (rest : List Input) (k : Nat) (ws : List (Reg × Word)) (hws : ∀ p ∈ ws, p.1 ≠ .cmd)
    (s : State) (hb : s.busy = false) (hbase : s.fixed.base = base) :
    Host.Core.run core (ws.length + k) { s with inputs := ws.map (fun p => asmWr base p.1 p.2) ++ rest } =
      Host.Core.run core k { s.writeRegs ws with inputs := rest } := by
  induction ws generalizing s with
  | nil => rw [List.length_nil, Nat.zero_add]; rfl
  | cons p ws ih =>
    obtain ⟨hp, hws⟩ := List.forall_mem_cons.1 hws
    have hb' : (s.regWrite p.1 p.2).busy = false := (State.regWrite_busy p.2 hp).trans hb
    have hbase' : (s.regWrite p.1 p.2).fixed.base = base := by rw [State.regWrite_frame, hbase]
    rw [List.length_cons, Nat.add_right_comm, List.map_cons, List.cons_append, run_succ (step_asmWr hb hbase p.1 p.2 _)]
    exact ih hws _ hb' hbase'

/-! ### The command statement -/

/-- R97: the ARG registers as a command statement's operands leave them; an omitted trailing operand leaves its register. -/
def State.loadArgs (s : State) (args : List Word) : State :=
  { s with arg0 := args.getD 0 s.arg0, arg1 := args.getD 1 s.arg1, arg2 := args.getD 2 s.arg2, arg3 := args.getD 3 s.arg3 }

/-- The ARG writes of a command statement write its operands in order. -/
theorem State.writeRegs_args (s : State) {args : List Word} (h : args.length ≤ 4) :
    s.writeRegs ([Reg.arg0, .arg1, .arg2, .arg3].zip args) = s.loadArgs args := by
  match args, h with
  | [], _ | [_], _ | [_, _], _ | [_, _, _], _ | [_, _, _, _], _ => rfl

/-- With no command pending, a run of the ARG writes loads the operands. -/
theorem run_asmArgs {s : State} {args : List Word} (h : args.length ≤ 4) (hb : s.busy = false) (rest : List Input) (k : Nat) :
    Host.Core.run core (args.length + k) { s with inputs := asmArgs s.fixed.base args ++ rest } =
      Host.Core.run core k { s.loadArgs args with inputs := rest } := by
  have hnot : ∀ p ∈ [Reg.arg0, .arg1, .arg2, .arg3].zip args, p.1 ≠ Reg.cmd := fun p hp hcmd =>
    absurd (hcmd ▸ (List.of_mem_zip hp).1) (by decide)
  have hlen : ([Reg.arg0, .arg1, .arg2, .arg3].zip args).length = args.length := by
    rw [List.length_zip]
    exact Nat.min_eq_right h
  have hrun := run_writes rest k _ hnot s hb rfl
  rwa [hlen, s.writeRegs_args h] at hrun

/-- A command changes neither the turns still to come nor the constants. -/
theorem exec_keeps_turns {i : Instr} {s t : State} (h : exec i s = .next t) : t.inputs = s.inputs ∧ t.fixed = s.fixed := by
  by_cases hi : i = .reset
  · subst hi
    rw [complete_eq_next h]
    exact ⟨rfl, rfl⟩
  · obtain ⟨-, -, -, -, -, -, -, hfixed, hinputs, -⟩ := onlyNamedCommandsWriteEachRegister i s t hi h
    exact ⟨hinputs, hfixed⟩

/-- Settles O10: the ARG writes, then the CMD write, the block's turn and the STATUS read, a step each. -/
theorem commandStatementRunsTheCommand : Obligations.CommandStatementRunsTheCommand := by
  intro s i args hlen hb hi
  have hb' : (s.loadArgs args).busy = false := hb
  obtain ⟨t, ht, -⟩ := exec_completes i { (s.loadArgs args).latch (encode i) with inputs := [asmRd s.fixed.base .status] }
  obtain ⟨hinputs, hfixed⟩ := exec_keeps_turns ht
  have hcmd : step { s.loadArgs args with inputs := asmWr s.fixed.base .cmd (encode i) :: asmWait s.fixed.base } =
      .next { (s.loadArgs args).latch (encode i) with inputs := asmWait s.fixed.base } := by
    rw [← State.regWrite_cmd_idle hb']
    exact step_asmWr hb' rfl .cmd (encode i) _
  have hblock : step { (s.loadArgs args).latch (encode i) with inputs := asmWait s.fixed.base } = .next t := by
    rw [step_of_blockRuns rfl, blockTurn_of_decode rfl (decode_encode i)]
    exact ht
  have hwait : step t = .next { t with inputs := [], readData := some t.status } := by
    rw [step_readReg (r := .status) (by rw [hinputs, hfixed]; rfl), State.hostRead_settled (.inr rfl)]
    rfl
  refine ⟨t, ht, ?_⟩
  calc Host.Core.run core (args.length + 3) s
    _ = Host.Core.run core (args.length + 3) { s with inputs := asmArgs s.fixed.base args ++
          (asmWr s.fixed.base .cmd (encode i) :: asmWait s.fixed.base) } := by
      rw [← List.singleton_append, ← List.append_assoc, ← asmCommand, ← hi]
    _ = Host.Core.run core 3 { s.loadArgs args with
          inputs := asmWr s.fixed.base .cmd (encode i) :: asmWait s.fixed.base } := run_asmArgs hlen hb _ 3
    _ = Host.Core.run core 1 t := by rw [run_succ hcmd, run_succ hblock]
    _ = .next { t with inputs := [], readData := some t.status } := run_succ hwait 0

end Sys2Proof.Machine
end

section
/-! PROOFS of the family `40_control`: NOP and RESET (spec/40_control.md rules R120, R121). NOP is the only command whose word has
OP = 0, and RESET ends in `State.clear`, whose tables are described by `State.TablesCleared`. -/

namespace Sys2Proof.Machine

/-! ### NOP -/

/-- R82: no other command's word has the OP of NOP. -/
theorem eq_nop_of_encode_op_zero {i : Instr} (h : (encode i).toNat % 2 ^ 8 = 0) : i = .nop := by
  cases i with
  | nop => rfl
  | portOpen t | portClose t | portFind t | sessAdd t | sessRemove t | sessGet t | sessLookup t =>
    cases t <;> exact absurd h (by decide)
  | _ => exact absurd h (by decide)

/-- R120: a word with OP = 0 and any other bit set is rejected. -/
theorem decode_error_of_op_zero {w : Word} (hop : w.toNat % 2 ^ 8 = 0) (hw : w ≠ 0#32) : ∃ e, decode w = .error e := by
  cases hd : decode w with
  | ok i =>
    have henc : w = encode i := eq_encode_of_decode hd
    obtain rfl : i = .nop := eq_nop_of_encode_op_zero (henc ▸ hop)
    exact absurd henc hw
  | error e => exact ⟨e, rfl⟩

/-- Settles O21: by O2 only the word 0 is NOP's, and NOP completes with nothing written. -/
theorem nopOnlyReportsOk : Obligations.NopOnlyReportsOk :=
  ⟨fun w hop => ⟨decodeInvertsEncodeExactly w .nop, decode_error_of_op_zero hop⟩, fun _ => rfl⟩

/-! ### RESET -/

/-- R39: the sentinel, a capacity of at most 254, is no slot's own index, so after a reset no session slot is in use. -/
theorem State.TablesCleared.inUse_eq_false {s : State} (h : s.TablesCleared) {tb : Table} (hcap : s.nSess tb ≤ 254) (i : Nat) :
    s.inUse tb i = false := by
  rw [Bool.eq_false_iff]
  intro hi
  obtain ⟨hlt, hsocket⟩ := (s.inUse_iff tb i).1 hi
  rw [h.sess tb i hlt, BitVec.toNat_ofNat] at hsocket
  omega

/-- R121: RESET leaves the cleared state, in which RC is OK and BUSY is 0 already. -/
theorem exec_reset (s : State) : exec .reset s = .next s.clear := rfl

/-- R300: a reset writes the registers and the tables, and nothing else. -/
theorem State.clear_frame (s : State) :
    s.clear = { s with
      arg0 := 0#32, arg1 := 0#32, arg2 := 0#32, arg3 := 0#32, cmd := 0#32
      busy := false, rc := .ok, own := .free, ovr := false
      res0 := 0#32, res1 := 0#32, res2 := 0#32, res3 := 0#32
      localMac := 0#48, localIp := 0#32, netmask := 0#32, gateway := 0#32, ipId := 0#16, csumAcc := 0#32
      arp := s.clear.arp, udp := s.clear.udp, tcp := s.clear.tcp, appUdp := s.clear.appUdp, appTcp := s.clear.appTcp } :=
  rfl

/-- Settles O22: the registers by the frame of `State.clear`, the capacities by `State.params_clear`, the tables by
`State.tablesCleared_clear`. -/
theorem resetCommandRestoresEverythingButBuf : Obligations.ResetCommandRestoresEverythingButBuf := by
  refine ⟨decode_encode .reset, fun s => ⟨s.clear, exec_reset s, s.clear_frame, ?_⟩⟩
  obtain ⟨-, hnArp, hnSess, hnApp⟩ := State.params_eq_iff.1 s.params_clear
  have hcleared := s.tablesCleared_clear
  refine ⟨hnArp, hnSess, hnApp, fun i hi => ?_, fun tb i hi => ?_, fun tb i hcap => ?_, fun tb j hj => ?_⟩
  · exact hcleared.arp i (hnArp ▸ hi)
  · rw [← hnSess tb] at hi ⊢
    exact hcleared.sess tb i hi
  · exact hcleared.inUse_eq_false (hnSess tb ▸ hcap) i
  · exact hcleared.app tb j (hnApp tb ▸ hj)

end Sys2Proof.Machine
end

section
/-! PROOFS of the family `41_buffer`: BUF_RD, BUF_WR and BUF_RELEASE (spec/41_buffer.md rules R130-R132). BUF_RD and BUF_WR check
their operands alike, so what a bad and a good pair of operands make of each is said once; the bytes are then those of `MemRead`
and `MemWrite` (spec/00_scope.md rule R11). -/

namespace Sys2Proof.Machine

/-! ### The operand checks (R130, R131) -/

/-- A width that is not 1, 2 or 4, or a range past the end of BUF, is refused. -/
theorem State.bufOperands_eq_none {s : State}
    (h : (s.arg1.toNat ≠ 1 ∧ s.arg1.toNat ≠ 2 ∧ s.arg1.toNat ≠ 4) ∨ s.fixed.bufSize < s.arg0.toNat + s.arg1.toNat) :
    s.bufOperands = none := by
  obtain ⟨hnone, -⟩ | ⟨-, hwidth, hfits⟩ := s.bufOperands_cases
  · exact hnone
  · omega

/-- Any other pair of operands is the offset and the width. -/
theorem State.bufOperands_eq_some {s : State} (hwidth : s.arg1.toNat = 1 ∨ s.arg1.toNat = 2 ∨ s.arg1.toNat = 4)
    (hfits : s.arg0.toNat + s.arg1.toNat ≤ s.fixed.bufSize) : s.bufOperands = some (s.arg0.toNat, s.arg1.toNat) := by
  obtain ⟨-, hbad⟩ | ⟨hsome, -⟩ := s.bufOperands_cases
  · omega
  · exact hsome

/-! ### What the two commands make of their operands -/

theorem exec_bufRd_of_none {s : State} (h : s.bufOperands = none) : exec .bufRd s = raise .badOperand s := by
  simp only [exec, execBufRd, h]

theorem exec_bufRd_of_some {s : State} {off w : Nat} (h : s.bufOperands = some (off, w)) :
    exec .bufRd s = complete .ok { s with res0 := natWord (s.memRead off w) } := by
  simp only [exec, execBufRd, h]

theorem exec_bufWr_of_none {s : State} (h : s.bufOperands = none) : exec .bufWr s = raise .badOperand s := by
  simp only [exec, execBufWr, h]

theorem exec_bufWr_of_some {s : State} {off w : Nat} (h : s.bufOperands = some (off, w)) :
    exec .bufWr s = complete .ok (s.memWrite off w s.arg2.toNat) := by
  simp only [exec, execBufWr, h]

/-! ### The bytes written -/

/-- The bytes `MemWrite` leaves, with each byte of the value as a quotient by a power of 256. -/
theorem State.bufByte_memWrite_div (s : State) (off n v a : Nat) :
    (s.memWrite off n v).bufByte a =
      if off ≤ a ∧ a < off + n then BitVec.ofNat 8 (v / 256 ^ (off + n - 1 - a)) else s.bufByte a := by
  rw [State.bufByte_memWrite, Nat.shiftRight_eq_div_pow, Nat.pow_mul]

/-! ### The statements -/

/-- Settles O23: the operand checks, then `MemRead` of each width as the big-endian number of its bytes. -/
theorem bufRdReadsBigEndian : Obligations.BufRdReadsBigEndian := by
  refine ⟨decode_encode .bufRd, fun s => ⟨fun hbad => ?_, fun hfits => ⟨fun hw => ?_, fun hw => ?_, fun hw => ?_⟩⟩⟩
  · exact exec_bufRd_of_none (State.bufOperands_eq_none hbad)
  · rw [exec_bufRd_of_some (State.bufOperands_eq_some (.inl hw) hfits), hw, s.memRead_one]
    rfl
  · rw [exec_bufRd_of_some (State.bufOperands_eq_some (.inr (.inl hw)) hfits), hw, s.memRead_two]
    rfl
  · rw [exec_bufRd_of_some (State.bufOperands_eq_some (.inr (.inr hw)) hfits), hw, s.memRead_four]
    rfl

/-- Settles O24: the operand checks, then the bytes that `MemWrite` leaves. -/
theorem bufWrWritesBigEndian : Obligations.BufWrWritesBigEndian := by
  refine ⟨decode_encode .bufWr, fun s => ⟨fun hbad => ?_, fun hwidth hfits => ?_⟩⟩
  · exact exec_bufWr_of_none (State.bufOperands_eq_none hbad)
  · exact ⟨_, exec_bufWr_of_some (State.bufOperands_eq_some hwidth hfits), rfl, fun a =>
      s.bufByte_memWrite_div s.arg0.toNat s.arg1.toNat s.arg2.toNat a⟩

/-- Settles O25: BUF_RELEASE checks nothing and completes with OWN = FREE (R132). -/
theorem bufReleaseFreesTheBuffer : Obligations.BufReleaseFreesTheBuffer :=
  ⟨decode_encode .bufRelease, fun _ => rfl⟩

end Sys2Proof.Machine
end

section
/-! PROOFS of the family `42_checksum`: the checksum accumulator (spec/42_checksum.md rules R140-R151). The accumulator after a
range is the end-around sum of an exact total (`State.sumRange_spec`), and that total alone decides the accumulator
(`EndAroundSum_unique`) and the checksum (`EndAroundSum.checksumValue_eq`); so both compositional statements are about totals. -/

namespace Sys2Proof.Machine

/-! ### The checksum of a total (R142, R148) -/

/-- The checksum of an accumulator is that of the total it is the end-around sum of: 0xFFFF divides 2^32 - 1. -/
theorem EndAroundSum.checksumValue_eq {acc : Word} {total : Nat} (h : EndAroundSum acc total) :
    checksumValue acc.toNat = checksumValue total := by
  obtain ⟨hmod, hzero⟩ := h
  have hzero : acc.toNat = 0 ↔ total = 0 := by rw [← hzero, ← BitVec.toNat_inj]; rfl
  have hmod : acc.toNat % 0xFFFF = total % 0xFFFF := by omega
  simp only [checksumValue, hzero, hmod]

/-- R148: a total and its checksum add up to a positive multiple of 0xFFFF. -/
theorem checksumValue_add_checksumValue (total : Nat) : checksumValue (total + checksumValue total) = 0 := by
  have hmultiple : (total + checksumValue total) % 0xFFFF = 0 ∧ total + checksumValue total ≠ 0 := by
    simp only [checksumValue]
    split
    · omega
    · split <;> omega
  obtain ⟨hmod, hne⟩ := hmultiple
  rw [checksumValue, if_neg hne, if_pos hmod]

theorem checksumValue_lt (x : Nat) : checksumValue x < 2 ^ 16 := by
  simp only [checksumValue]
  split
  · omega
  · split <;> omega

/-- R142: the result register holds the checksum as a number. -/
theorem halfWord_checksumFinal (acc : Word) : halfWord (checksumFinal acc) = BitVec.ofNat 32 (checksumValue acc.toNat) := by
  have hlt := checksumValue_lt acc.toNat
  apply BitVec.eq_of_toNat_eq
  rw [halfWord_toNat, checksumFinal_toNat, BitVec.toNat_ofNat, Nat.mod_eq_of_lt (by omega)]

/-! ### Totals of ranges (R141, R149) -/

/-- R149: summing a range of even length and then the range that follows it is summing the whole. -/
theorem State.sumRange_append (s : State) (acc : Word) (off m : Nat) {n : Nat} (hn : n % 2 = 0) :
    s.sumRange (s.sumRange acc off n) (off + n) m = s.sumRange acc off (n + m) := by
  have hfirst := s.sumRange_spec n off acc acc.toNat (EndAroundSum_self acc)
  have hpieces := s.sumRange_spec m (off + n) _ _ hfirst
  have hwhole := s.sumRange_spec (n + m) off acc acc.toNat (EndAroundSum_self acc)
  rw [Nat.add_assoc, ← s.wordSum_append n off m hn] at hpieces
  exact EndAroundSum_unique hpieces hwhole

theorem State.wordSum_two (s : State) (off : Nat) : s.wordSum off 2 = s.be16 off := by
  simp [s.wordSum_succ off 2 (by omega), State.rangeWord, State.be16]

/-- A 16-bit field at an even offset is one of the words of the range. -/
theorem State.wordSum_eq_field_add (s : State) (off : Nat) {len f : Nat} (hf : f % 2 = 0) (hlen : f + 2 ≤ len) :
    s.wordSum off len = s.wordSum off f + (s.be16 (off + f) + s.wordSum (off + f + 2) (len - f - 2)) := by
  obtain ⟨rest, rfl⟩ : ∃ rest, len = f + (2 + rest) := ⟨len - f - 2, by omega⟩
  rw [s.wordSum_append f off (2 + rest) hf, s.wordSum_append 2 (off + f) rest rfl, s.wordSum_two,
    show f + (2 + rest) - f - 2 = rest by omega]

/-- A 16-bit value written big-endian is read back. -/
theorem State.be16_memWrite_same (s : State) (a : Nat) {v : Nat} (hv : v < 2 ^ 16) : (s.memWrite a 2 v).be16 a = v := by
  have hhigh : ((s.memWrite a 2 v).bufByte a).toNat = v / 2 ^ 8 := by
    rw [State.bufByte_memWrite_div, if_pos (by omega), BitVec.toNat_ofNat, show a + 2 - 1 - a = 1 by omega]
    omega
  have hlow : ((s.memWrite a 2 v).bufByte (a + 1)).toNat = v % 2 ^ 8 := by
    rw [State.bufByte_memWrite_div, if_pos (by omega), BitVec.toNat_ofNat, show a + 2 - 1 - (a + 1) = 0 by omega]
    omega
  rw [State.be16, State.be8, State.be8, hhigh, hlow]
  omega

/-- Writing a zero 16-bit field at an even offset of a range adds the value to the range's total. -/
theorem State.wordSum_memWrite_field (s : State) (off : Nat) {len f v : Nat} (hf : f % 2 = 0) (hlen : f + 2 ≤ len)
    (hv : v < 2 ^ 16) (hzero : s.be16 (off + f) = 0) :
    (s.memWrite (off + f) 2 v).wordSum off len = s.wordSum off len + v := by
  have hbefore : (s.memWrite (off + f) 2 v).wordSum off f = s.wordSum off f :=
    State.wordSum_congr fun a _ _ => by rw [State.bufByte_memWrite, if_neg (by omega)]
  have hafter : (s.memWrite (off + f) 2 v).wordSum (off + f + 2) (len - f - 2) = s.wordSum (off + f + 2) (len - f - 2) :=
    State.wordSum_congr fun a _ _ => by rw [State.bufByte_memWrite, if_neg (by omega)]
  rw [State.wordSum_eq_field_add _ off hf hlen, hbefore, hafter, State.be16_memWrite_same s _ hv,
    s.wordSum_eq_field_add off hf hlen, hzero]
  omega

/-! ### What the commands make of their operands -/

/-- R145: CSUM_ADDW's operand is the low half of ARG0. -/
theorem lowHalf_toNat (w : Word) : (lowHalf w).toNat = w.toNat % 2 ^ 16 := by
  simp [lowHalf, BitVec.extractLsb'_toNat]

theorem exec_csumAdd_of_past {s : State} (h : s.fixed.bufSize < s.arg0.toNat + s.arg1.toNat) :
    exec .csumAdd s = raise .badOperand s := by
  simp only [exec, execCsumAdd, State.inBuf, decide_eq_true_eq, if_neg (Nat.not_le.2 h)]

theorem exec_csumAdd_of_fits {s : State} (h : s.arg0.toNat + s.arg1.toNat ≤ s.fixed.bufSize) :
    exec .csumAdd s = complete .ok { s with csumAcc := s.sumRange s.csumAcc s.arg0.toNat s.arg1.toNat } := by
  simp only [exec, execCsumAdd, State.inBuf, decide_eq_true_eq, if_pos h]

theorem exec_csum_of_past {s : State} (h : s.fixed.bufSize < s.arg0.toNat + s.arg1.toNat) :
    exec .csum s = raise .badOperand s := by
  simp only [exec, execCsum, State.inBuf, decide_eq_true_eq, if_neg (Nat.not_le.2 h)]

theorem exec_csum_of_fits {s : State} (h : s.arg0.toNat + s.arg1.toNat ≤ s.fixed.bufSize) :
    exec .csum s = complete .ok { s with
      csumAcc := s.sumRange s.arg2 s.arg0.toNat s.arg1.toNat
      res0 := BitVec.ofNat 32 (checksumValue (s.sumRange s.arg2 s.arg0.toNat s.arg1.toNat).toNat) } := by
  simp only [exec, execCsum, State.inBuf, decide_eq_true_eq, if_pos h, halfWord_checksumFinal]

/-- R147 with start value 0: RES0 is the checksum of the range's total. -/
theorem exec_csum_from_zero {s : State} (hstart : s.arg2 = 0#32) (h : s.arg0.toNat + s.arg1.toNat ≤ s.fixed.bufSize) :
    exec .csum s = complete .ok { s with
      csumAcc := s.sumRange 0#32 s.arg0.toNat s.arg1.toNat
      res0 := BitVec.ofNat 32 (checksumValue (s.wordSum s.arg0.toNat s.arg1.toNat)) } := by
  have hsum := s.sumRange_spec s.arg1.toNat s.arg0.toNat 0#32 0 (EndAroundSum_self 0#32)
  rw [Nat.zero_add] at hsum
  rw [exec_csum_of_fits h, hstart, hsum.checksumValue_eq]

/-! ### The statements -/

/-- Settles O26: CSUM_INIT checks nothing and completes with the accumulator loaded (R143). -/
theorem csumInitLoadsTheAccumulator : Obligations.CsumInitLoadsTheAccumulator :=
  ⟨decode_encode .csumInit, fun _ => rfl⟩

/-- Settles O27: the bounds check, then `State.sumRange_spec` from the old accumulator. -/
theorem csumAddAddsTheRange : Obligations.CsumAddAddsTheRange :=
  ⟨decode_encode .csumAdd, fun s => ⟨exec_csumAdd_of_past, fun hfits =>
    ⟨_, s.sumRange_spec _ _ _ _ (EndAroundSum_self s.csumAcc), exec_csumAdd_of_fits hfits⟩⟩⟩

/-- Settles O28: one addition of R140. -/
theorem csumAddwAddsOneWord : Obligations.CsumAddwAddsOneWord :=
  ⟨decode_encode .csumAddw, fun s => ⟨add16 s.csumAcc (lowHalf s.arg0), rfl, by rw [add16_toNat, lowHalf_toNat]⟩⟩

/-- Settles O29: the fold of R142 as arithmetic modulo 0xFFFF. -/
theorem csumFinalGivesTheChecksum : Obligations.CsumFinalGivesTheChecksum := by
  refine ⟨decode_encode .csumFinal, fun s => ?_⟩
  rw [← halfWord_checksumFinal]
  rfl

/-- Settles O30: as CSUM_ADD, from the start value in ARG2, and the checksum of the new accumulator. -/
theorem csumChecksumsTheRange : Obligations.CsumChecksumsTheRange :=
  ⟨decode_encode .csum, fun s => ⟨exec_csum_of_past, fun hfits =>
    ⟨_, s.sumRange_spec _ _ _ _ (EndAroundSum_self s.arg2), exec_csum_of_fits hfits⟩⟩⟩

/-- Settles O31: the write adds the checksum to the total of the region, which makes it a positive multiple of 0xFFFF. -/
theorem checksumRoundTripGivesZero : Obligations.ChecksumRoundTripGivesZero := by
  intro s f hstart hfits _ hf hlen hzero
  have hlt := checksumValue_lt (s.wordSum s.arg0.toNat s.arg1.toNat)
  refine ⟨_, _, exec_csum_from_zero hstart hfits, exec_csum_from_zero hstart hfits, ?_⟩
  simp only [State.memWrite_arg0, State.memWrite_arg1, BitVec.toNat_ofNat]
  rw [Nat.mod_eq_of_lt (by omega), State.wordSum_memWrite_field _ _ hf hlen hlt ?field]
  case field => exact hzero
  exact congrArg (BitVec.ofNat 32) (checksumValue_add_checksumValue _)

/-- Settles O32: no address or length wraps in a BUF of at most 65535 bytes, so it is `State.sumRange_append`. -/
theorem evenRangesChain : Obligations.EvenRangesChain := by
  intro s off n m hn hfits hsize
  have hoff : (off + n).toNat = off.toNat + n.toNat := by rw [BitVec.toNat_add, Nat.mod_eq_of_lt (by omega)]
  have hlen : (n + m).toNat = n.toNat + m.toNat := by rw [BitVec.toNat_add, Nat.mod_eq_of_lt (by omega)]
  refine ⟨_, _, _, exec_csumAdd_of_fits (Nat.le_of_add_right_le hfits),
    exec_csumAdd_of_fits (by simp only [hoff]; exact hfits),
    exec_csumAdd_of_fits (by simp only [hlen, ← Nat.add_assoc]; exact hfits), ?_⟩
  simp only [hoff, hlen]
  exact s.sumRange_append s.csumAcc off.toNat m.toNat hn

end Sys2Proof.Machine
end

section
/-! PROOFS of the family `43_arp_cache`: the ARP commands and learning (spec/43_arp_cache.md rules R160-R171). ARP_ADD and learning
share one insertion, so its outcome for each case is said once; ARP_TICK and ARP_STAT count slots, which is a count over slot
numbers; and k ticks in a row are `ArpSlot.ticks` on each slot. -/

namespace Sys2Proof.Machine

/-! ### Insertion and learning (R162, R163) -/

theorem State.arpInsert_zero (s : State) (mac : Mac) : s.arpInsert 0#32 mac = (s, none) := by
  simp only [State.arpInsert, if_pos]

/-- A held address is refreshed. -/
theorem State.arpInsert_of_held {s : State} {ip : IPv4} {i : Nat} (mac : Mac) (hip : ip ≠ 0#32)
    (hi : LeastIndex s.nArp (s.arpHolds ip) i) :
    s.arpInsert ip mac = (s.setArp i { s.arpAt i with ttl := s.fixed.arpTtlMax }, some i) := by
  simp only [State.arpInsert, if_neg hip, (s.arpFind_eq_some_iff ip i).2 ⟨hip, hi⟩]

/-- A new address goes into the lowest empty slot. -/
theorem State.arpInsert_of_free {s : State} {ip : IPv4} {j : Nat} (mac : Mac) (hip : ip ≠ 0#32)
    (hnew : NoIndex s.nArp (s.arpHolds ip)) (hj : LeastIndex s.nArp (s.arpHolds 0#32) j) :
    s.arpInsert ip mac = (s.setArp j ⟨ip, mac, s.fixed.arpTtlMax⟩, some j) := by
  simp only [State.arpInsert, if_neg hip, (s.arpFind_eq_none_iff ip).2 (.inr hnew), (s.arpFree_eq_some_iff j).2 hj]

/-- A new address finds no place in a full table. -/
theorem State.arpInsert_of_full {s : State} {ip : IPv4} (mac : Mac) (hip : ip ≠ 0#32)
    (hnew : NoIndex s.nArp (s.arpHolds ip)) (hfull : NoIndex s.nArp (s.arpHolds 0#32)) :
    s.arpInsert ip mac = (s, none) := by
  simp only [State.arpInsert, if_neg hip, (s.arpFind_eq_none_iff ip).2 (.inr hnew), s.arpFree_eq_none_iff.2 hfull]

/-- R163: learning is the insertion of the redirected address; 0 is tested before the redirection. -/
theorem State.learn_eq_arpInsert (s : State) (ip : IPv4) (mac : Mac) :
    s.learn ip mac = if ip = 0#32 then s else (s.arpInsert (s.redirectKey ip) mac).1 := by
  rw [State.learn, s.redirect_eq]

/-! ### What ARP_ADD, ARP_GET and ARP_SLOT make of their operands (R165, R166, R170) -/

theorem exec_arpAdd_of_zero {s : State} (h : s.arg0 = 0#32) : exec .arpAdd s = raise .badOperand s := by
  simp only [exec, execArpAdd, if_pos h]

theorem exec_arpAdd_of_stored {s t : State} {i : Nat} (h : s.arg0 ≠ 0#32)
    (hins : s.arpInsert s.arg0 s.argMac = (t, some i)) :
    exec .arpAdd s = complete .ok { t with res0 := natWord i } := by
  simp only [exec, execArpAdd, if_neg h, hins]

theorem exec_arpAdd_of_notStored {s t : State} (h : s.arg0 ≠ 0#32)
    (hins : s.arpInsert s.arg0 s.argMac = (t, none)) :
    exec .arpAdd s = complete .full { t with res0 := natWord s.nArp } := by
  simp only [exec, execArpAdd, if_neg h, hins]

theorem exec_arpGet_of_none {s : State} (h : s.arpFind s.arg0 = none) :
    exec .arpGet s = complete .miss { s with res0 := natWord s.nArp, res1 := 0#32, res2 := 0#32, res3 := 0#32 } := by
  simp only [exec, execArpGet, h]

theorem exec_arpGet_of_some {s : State} {i : Nat} (h : s.arpFind s.arg0 = some i) :
    exec .arpGet s = complete .ok { s with
      res0 := natWord i, res1 := macHigh (s.arpAt i).mac, res2 := halfWord (macLow (s.arpAt i).mac)
      res3 := halfWord (s.arpAt i).ttl } := by
  simp only [exec, execArpGet, h]

theorem exec_arpSlot_of_past {s : State} (h : s.nArp ≤ s.arg0.toNat) : exec .arpSlot s = raise .badOperand s := by
  simp only [exec, execArpSlot, if_pos h]

theorem exec_arpSlot_of_getElem? {s : State} {e : ArpSlot} (h : s.arp[s.arg0.toNat]? = some e) :
    exec .arpSlot s = complete .ok { s with
      res0 := e.ip, res1 := macHigh e.mac, res2 := halfWord (macLow e.mac), res3 := halfWord e.ttl } := by
  obtain ⟨hlt, rfl⟩ := List.getElem?_eq_some_iff.1 h
  simp only [exec, execArpSlot, if_neg (show ¬ s.nArp ≤ s.arg0.toNat from Nat.not_le.2 hlt), s.arpAt_eq_getElem _ hlt]

/-! ### The flags of a resolution (R86, R167) -/

/-- The flag word of a resolution as the number `2·BCAST + HIT` (`State.resolve_of_ResolvesTo`). -/
theorem hitWord_eq_ofNat {k : Nat} (hk : k ≤ 2) : hitWord (k == 2) (k == 1) = BitVec.ofNat 32 k := by
  match k, hk with
  | 0, _ => rfl
  | 1, _ => rfl
  | 2, _ => rfl

/-! ### Counting slots (R168, R169) -/

/-- The cache's table is its slots in order. -/
theorem State.arp_eq_map_arpAt (s : State) : s.arp = (List.range s.nArp).map s.arpAt := by
  have hlen : s.arp.length = ((List.range s.nArp).map s.arpAt).length := by
    rw [List.length_map, List.length_range, State.nArp]
  refine List.ext_getElem hlen fun i hi _ => ?_
  rw [List.getElem_map, List.getElem_range, s.arpAt_eq_getElem i hi]

/-- Counting entries of the table is counting slot numbers. -/
theorem State.countP_arp (s : State) (p : ArpSlot → Bool) :
    s.arp.countP p = (List.range s.nArp).countP (fun i => p (s.arpAt i)) := by
  have hmap := List.countP_map (p := p) (f := s.arpAt) (l := List.range s.nArp)
  rw [← s.arp_eq_map_arpAt] at hmap
  exact hmap

/-- R168: the slots evicted by a tick are the live ones at their last second. -/
theorem ArpSlot.evicted_eq (e : ArpSlot) : e.evicted = decide (e.ip ≠ 0#32 ∧ e.ttl = 1#16) := by
  have hlast : e.ttl - 1#16 = 0#16 ↔ e.ttl = 1#16 := by bv_omega
  simp only [ArpSlot.evicted, Bool.beq_eq_decide_eq, hlast, Bool.decide_and]

theorem State.arpLive_eq (s : State) : s.arpLive = (List.range s.nArp).countP (fun i => (s.arpAt i).ip ≠ 0#32) := by
  rw [State.arpLive, s.countP_arp]
  simp only [bne, Bool.beq_eq_decide_eq, decide_not, ne_eq]

/-! ### Ageing one slot (R168, R171) -/

theorem ArpSlot.tick_of_empty {e : ArpSlot} (h : e.ip = 0#32) : e.tick = e := if_pos h

/-- A live slot at its last second is emptied. -/
theorem ArpSlot.tick_of_last {e : ArpSlot} (hip : e.ip ≠ 0#32) (httl : e.ttl = 1#16) : e.tick = ArpSlot.empty := by
  rw [ArpSlot.tick, if_neg hip, if_pos (by rw [httl]; rfl)]

/-- A live slot with more seconds left loses one. -/
theorem ArpSlot.tick_of_live {e : ArpSlot} (hip : e.ip ≠ 0#32) (httl : 1 < e.ttl.toNat) :
    e.tick = { e with ttl := BitVec.ofNat 16 (e.ttl.toNat - 1) } := by
  have hdown : e.ttl - 1#16 = BitVec.ofNat 16 (e.ttl.toNat - 1) := by bv_omega
  rw [ArpSlot.tick, if_neg hip, if_neg (by bv_omega), hdown]

/-- What `k` ticks in a row do to one slot; the recursion follows `repeatCommand`. -/
def ArpSlot.ticks (k : Nat) (e : ArpSlot) : ArpSlot :=
  match k with
  | 0 => e
  | k + 1 => e.tick.ticks k

@[simp] theorem ArpSlot.ticks_zero (e : ArpSlot) : e.ticks 0 = e := rfl

theorem ArpSlot.ticks_succ (e : ArpSlot) (k : Nat) : e.ticks (k + 1) = e.tick.ticks k := rfl

/-- R168: empty slots are not touched. -/
theorem ArpSlot.ticks_of_empty {e : ArpSlot} (h : e.ip = 0#32) (k : Nat) : e.ticks k = e := by
  induction k with
  | zero => rfl
  | succ k ih => rw [e.ticks_succ, ArpSlot.tick_of_empty h, ih]

/-- One second less of a ttl does not wrap. -/
theorem ttl_sub_one_toNat (ttl : Half) : (BitVec.ofNat 16 (ttl.toNat - 1)).toNat = ttl.toNat - 1 := by
  have hlt := ttl.isLt
  rw [BitVec.toNat_ofNat, Nat.mod_eq_of_lt (by omega)]

/-- R171: before its ttl has run out a live slot keeps its address and MAC. -/
theorem ArpSlot.ticks_of_lt {e : ArpSlot} (hip : e.ip ≠ 0#32) {k : Nat} (hk : k < e.ttl.toNat) :
    e.ticks k = { e with ttl := BitVec.ofNat 16 (e.ttl.toNat - k) } := by
  induction k generalizing e with
  | zero => rw [e.ticks_zero, Nat.sub_zero, BitVec.ofNat_toNat, BitVec.setWidth_eq]
  | succ k ih =>
    have hleft := ttl_sub_one_toNat e.ttl
    rw [e.ticks_succ, ArpSlot.tick_of_live hip (by omega), ih]
    · simp only [hleft, Nat.sub_sub, Nat.add_comm 1 k]
    · exact hip
    · rw [hleft]; omega

/-- R171: once its ttl has run out a live slot is empty, and it stays so. -/
theorem ArpSlot.ticks_of_le {e : ArpSlot} (hip : e.ip ≠ 0#32) {k : Nat} (hpos : 0 < e.ttl.toNat) (hk : e.ttl.toNat ≤ k) :
    e.ticks k = ArpSlot.empty := by
  induction k generalizing e with
  | zero => omega
  | succ k ih =>
    by_cases hlast : e.ttl = 1#16
    · rw [e.ticks_succ, ArpSlot.tick_of_last hip hlast, ArpSlot.ticks_of_empty rfl]
    · have hmore : 1 < e.ttl.toNat := by bv_omega
      have hleft := ttl_sub_one_toNat e.ttl
      rw [e.ticks_succ, ArpSlot.tick_of_live hip hmore]
      exact ih hip (by rw [hleft]; omega) (by rw [hleft]; omega)

/-! ### Ageing the cache (R168, R171) -/

/-- The state after one ARP_TICK. -/
def State.arpTicked (s : State) : State :=
  { s with arp := s.arp.map ArpSlot.tick, res0 := natWord (s.arp.countP ArpSlot.evicted), rc := .ok, busy := false }

theorem exec_arpTick (s : State) : exec .arpTick s = .next s.arpTicked := rfl

@[simp] theorem State.nArp_arpTicked (s : State) : s.arpTicked.nArp = s.nArp := List.length_map _

@[simp] theorem State.arpAt_arpTicked (s : State) (i : Nat) : s.arpTicked.arpAt i = (s.arpAt i).tick :=
  s.arpAt_map_tick i

/-- ARP_TICKs in a row age every slot once each. -/
theorem repeatCommand_arpTick (k : Nat) (s : State) :
    ∃ t, repeatCommand .arpTick k s = .next t ∧ t.nArp = s.nArp ∧ ∀ i, t.arpAt i = (s.arpAt i).ticks k := by
  induction k generalizing s with
  | zero => exact ⟨s, rfl, rfl, fun _ => rfl⟩
  | succ k ih =>
    obtain ⟨t, hrun, hn, hat⟩ := ih s.arpTicked
    refine ⟨t, hrun, hn.trans s.nArp_arpTicked, fun i => ?_⟩
    rw [hat i, s.arpAt_arpTicked, ArpSlot.ticks_succ]

/-! ### The statements -/

/-- Settles O33: the operand check, then the insertion case by case. -/
theorem arpAddRefreshesOrInserts : Obligations.ArpAddRefreshesOrInserts := by
  refine ⟨decode_encode .arpAdd, fun s => ⟨exec_arpAdd_of_zero, fun i hip hi => ?_, fun j hip hnew hj => ?_,
    fun hip hnew hfull => ?_⟩⟩
  · exact exec_arpAdd_of_stored hip (State.arpInsert_of_held _ hip hi)
  · exact exec_arpAdd_of_stored hip (State.arpInsert_of_free _ hip hnew hj)
  · exact exec_arpAdd_of_notStored hip (State.arpInsert_of_full _ hip hnew hfull)

/-- Settles O34: the search of R160, which never finds 0, and the readout of the slot it finds. -/
theorem arpGetFindsTheSlot : Obligations.ArpGetFindsTheSlot := by
  refine ⟨decode_encode .arpGet, fun s => ⟨fun hmiss => ?_, fun i hip hi => ?_⟩⟩
  · exact exec_arpGet_of_none ((s.arpFind_eq_none_iff s.arg0).2 hmiss)
  · rw [exec_arpGet_of_some ((s.arpFind_eq_some_iff s.arg0 i).2 ⟨hip, hi⟩), ← halfWord_eq, ← halfWord_eq]
    rfl

/-- Settles O35: `State.resolve` answers as `State.ResolvesTo` says, and RC is MISS when neither flag is set. -/
theorem arpResolveGivesTheDestination : Obligations.ArpResolveGivesTheDestination := by
  refine ⟨decode_encode .arpResolve, fun s mac k key h => ?_⟩
  obtain ⟨hres, hk⟩ := State.resolve_of_ResolvesTo h
  have hfound : (k == 1 || k == 2) = true ↔ ¬ k = 0 := by
    simp only [Bool.or_eq_true, beq_iff_eq]
    omega
  simp only [exec, execArpResolve, hres, hfound, ite_not, hitWord_eq_ofNat hk, ← halfWord_eq]
  rfl

/-- Settles O36: each slot by `ArpSlot.tick`, and the evicted ones counted by slot number. -/
theorem arpTickAgesAndEvicts : Obligations.ArpTickAgesAndEvicts := by
  refine ⟨decode_encode .arpTick, fun s => ⟨s.arpTicked, exec_arpTick s, ?_, s.nArp_arpTicked, fun i _ => ?_⟩⟩
  · simp only [← ArpSlot.evicted_eq, ← State.countP_arp]
    rfl
  · rw [s.arpAt_arpTicked]
    exact ⟨ArpSlot.tick_of_empty, ArpSlot.tick_of_last, ArpSlot.tick_of_live⟩

/-- Settles O37: the live entries counted by slot number. -/
theorem arpStatCountsLiveSlots : Obligations.ArpStatCountsLiveSlots := by
  refine ⟨decode_encode .arpStat, fun s n hn => ?_⟩
  rw [← s.arpLive_eq] at hn
  subst hn
  simp only [exec, execArpStat, bitWord, beq_iff_eq]
  rfl

/-- Settles O38: the index check, then the readout of the slot. -/
theorem arpSlotReadsOneSlot : Obligations.ArpSlotReadsOneSlot := by
  refine ⟨decode_encode .arpSlot, fun s => ⟨exec_arpSlot_of_past, fun e he => ?_⟩⟩
  rw [exec_arpSlot_of_getElem? he, ← halfWord_eq, ← halfWord_eq]
  rfl

/-- Settles O39: k ARP_TICKs are `ArpSlot.ticks` on the slot, before and after its ttl runs out. -/
theorem arpEntryExpiresAfterItsTtl : Obligations.ArpEntryExpiresAfterItsTtl := by
  intro k s i _ hip httl
  obtain ⟨t, hrun, hn, hat⟩ := repeatCommand_arpTick k s
  refine ⟨t, hrun, hn, ?_⟩
  rw [hat i]
  exact ⟨ArpSlot.ticks_of_lt hip, ArpSlot.ticks_of_le hip (by bv_omega)⟩

/-- Settles O40: 0 is tested first; the rest is the insertion of the redirected address. -/
theorem learnRefreshesOrInsertsTheKey : Obligations.LearnRefreshesOrInsertsTheKey := by
  intro s ip mac
  rw [s.learn_eq_arpInsert]
  refine ⟨?_, fun hip hkey => ?_⟩
  · rintro (hip | hkey)
    · exact if_pos hip
    · rw [hkey, s.arpInsert_zero, ite_self]
  · rw [if_neg hip]
    refine ⟨fun i hi => ?_, fun hnew => ⟨fun j hj => ?_, fun hfull => ?_⟩⟩
    · rw [State.arpInsert_of_held mac hkey hi]; rfl
    · rw [State.arpInsert_of_free mac hkey hnew hj]; rfl
    · rw [State.arpInsert_of_full mac hkey hnew hfull]

end Sys2Proof.Machine
end

section
/-! PROOFS of the family `44_dispatcher`: CLASSIFY stage by stage (spec/44_dispatcher.md rules R190-R205). What the stages test
is said first in the big-endian numbers of the frame; then what each stage answers in each of its cases; the statements are chains of
these. -/

namespace Sys2Proof.Machine

/-! ### The numbers the stages read (R61, R90) -/

theorem State.read8_eq_iff (s : State) (a : Nat) (v : Byte) : s.read8 a = v ↔ s.be8 a = v.toNat := by
  rw [← BitVec.toNat_inj, s.read8_toNat]

theorem State.read16_eq_iff (s : State) (a : Nat) (v : Half) : s.read16 a = v ↔ s.be16 a = v.toNat := by
  rw [← BitVec.toNat_inj, s.read16_toNat]

/-- R198: link-layer broadcast, as the Ethernet stage tests it. -/
def State.isBroadcast (s : State) : Bool := s.read48 0 == bcastMac

theorem State.isBroadcast_iff (s : State) : s.isBroadcast = true ↔ s.linkBroadcast := by
  rw [State.isBroadcast, beq_iff_eq, ← BitVec.toNat_inj, s.read48_toNat]
  rfl

/-- R191: the BCAST bit of RES0 is the Ethernet stage's flag. -/
theorem State.bcastBit_eq (s : State) : s.bcastBit = if s.isBroadcast then 2 ^ 22 else 0 := by
  by_cases h : s.linkBroadcast
  · rw [if_pos (s.isBroadcast_iff.2 h)]
    exact if_pos h
  · rw [if_neg (mt s.isBroadcast_iff.1 h)]
    exact if_neg h

theorem State.ipHeader_version_toNat (s : State) : s.ipHeader.version.toNat = s.be8 14 / 16 := by
  have hlt := s.be8_lt 14
  simp only [State.ipHeader, BitVec.extractLsb'_toNat, s.read8_toNat, Nat.shiftRight_eq_div_pow]
  omega

theorem State.ipHeader_ihl_toNat (s : State) : s.ipHeader.ihl.toNat = s.be8 14 % 16 := by
  simp only [State.ipHeader, BitVec.extractLsb'_toNat, s.read8_toNat, Nat.shiftRight_eq_div_pow]
  omega

theorem State.ipHeader_bytes (s : State) : s.ipHeader.bytes = 4 * (s.be8 14 % 16) := by
  rw [IpHeader.bytes, s.ipHeader_ihl_toNat]

theorem State.ipHeader_total (s : State) : s.ipHeader.total = s.be16 16 := s.read16_toNat 16

theorem State.ipHeader_proto_eq_iff (s : State) (v : Byte) : s.ipHeader.proto = v ↔ s.be8 23 = v.toNat := s.read8_eq_iff 23 v

theorem State.ipHeader_src (s : State) : s.ipHeader.src = BitVec.ofNat 32 (s.be32 26) := s.read32_eq 26

/-- R197: the structure checks. -/
theorem State.ipHeader_structureOk_iff (s : State) (len : Nat) :
    s.ipHeader.structureOk len = true ↔
      s.be8 14 / 16 = 4 ∧ 5 ≤ s.be8 14 % 16 ∧ 4 * (s.be8 14 % 16) ≤ s.be16 16 ∧ 14 + s.be16 16 ≤ len := by
  simp only [IpHeader.structureOk, Bool.and_eq_true, decide_eq_true_eq, beq_iff_eq, ← BitVec.toNat_inj,
    s.ipHeader_version_toNat, s.ipHeader_ihl_toNat, s.ipHeader_bytes, s.ipHeader_total, BitVec.toNat_ofNat, and_assoc]

/-- R198: acceptance. -/
theorem State.ipAccepts_iff (s : State) : s.ipAccepts s.ipHeader s.isBroadcast = true ↔ s.ipAccepted (s.be8 23) := by
  have hdst : s.ipHeader.dst = s.localIp ↔ s.be32 30 = s.localIp.toNat := by
    rw [← BitVec.toNat_inj]
    exact iff_of_eq (congrArg (· = s.localIp.toNat) (s.read32_toNat 30))
  simp only [State.ipAccepts, Bool.or_eq_true, Bool.and_eq_true, beq_iff_eq, hdst, s.ipHeader_proto_eq_iff,
    s.isBroadcast_iff]
  rfl

/-! ### The result words (R191) -/

/-- Bit fields side by side, as a number. -/
theorem append_toNat {m n : Nat} (x : BitVec m) (y : BitVec n) : (x ++ y).toNat = x.toNat * 2 ^ n + y.toNat := by
  rw [BitVec.toNat_append, ← Nat.shiftLeft_add_eq_or_of_lt y.isLt, Nat.shiftLeft_eq]

theorem classWord_eq_ofNat (ihl : BitVec 4) (bc : Bool) (flags : BitVec 6) (index : Byte) (lookup : BitVec 2)
    (cls : BitVec 4) :
    classWord ihl bc flags index lookup cls = BitVec.ofNat 32 (ihl.toNat * 2 ^ 24 + (if bc then 2 ^ 22 else 0) +
      flags.toNat * 2 ^ 16 + index.toNat * 2 ^ 8 + lookup.toNat * 2 ^ 4 + cls.toNat) := by
  have hbc : (BitVec.ofBool bc).toNat * 2 ^ 22 = if bc then 2 ^ 22 else 0 := by cases bc <;> rfl
  apply BitVec.eq_of_toNat_eq
  simp only [classWord, append_toNat, BitVec.toNat_ofNat, ← hbc]
  omega

/-- The class word of a frame without an IPv4 header or a demultiplexed port. -/
theorem State.classWord_arp (s : State) (cls : BitVec 4) :
    classWord 0#4 s.isBroadcast 0#6 0#8 0#2 cls = BitVec.ofNat 32 (s.bcastBit + cls.toNat) := by
  simp [classWord_eq_ofNat, s.bcastBit_eq]

theorem pairWord_eq_ofNat (hi lo : Half) : pairWord hi lo = BitVec.ofNat 32 (hi.toNat * 2 ^ 16 + lo.toNat) := by
  apply BitVec.eq_of_toNat_eq
  have hlt := (pairWord hi lo).isLt
  rw [pairWord, halves_toNat] at hlt ⊢
  rw [BitVec.toNat_ofNat, Nat.mod_eq_of_lt hlt]

theorem extentWord_eq_ofNat {off len : Nat} (hoff : off < 2 ^ 16) (hlen : len < 2 ^ 16) :
    extentWord off len = BitVec.ofNat 32 (off * 2 ^ 16 + len) := by
  rw [extentWord, pairWord_eq_ofNat, BitVec.toNat_ofNat, BitVec.toNat_ofNat, Nat.mod_eq_of_lt hoff, Nat.mod_eq_of_lt hlen]

/-! ### The checks before the stages (R190, R192) -/

theorem exec_classify_of_past {s : State} (h : s.fixed.bufSize < s.arg0.toNat) :
    exec .classify s = raise .badOperand s := by
  simp only [exec, execClassify, if_pos h]

theorem exec_classify_of_owned {s : State} (hfits : s.arg0.toNat ≤ s.fixed.bufSize) (hown : s.own ≠ .free) :
    exec .classify s = raise .owned s := by
  simp only [exec, execClassify, if_neg (Nat.not_lt.2 hfits), if_pos hown]

/-- Past the checks CLASSIFY completes with the stages' state and report. -/
theorem exec_classify_of_verdict {s u : State} {r : Report} (hfits : s.arg0.toNat ≤ s.fixed.bufSize) (hown : s.own = .free)
    (hv : s.classifyFrame s.arg0.toNat = (u, r)) : exec .classify s = .next (u.reporting .ok r) := by
  simp only [exec, execClassify, if_neg (Nat.not_lt.2 hfits), hown, hv, ne_eq, not_true_eq_false, if_false]
  rfl

theorem State.classifyFrame_of_short {s : State} {len : Nat} (h : len < 14) : s.classifyFrame len = s.dropped :=
  if_neg (Nat.not_le.2 h)

theorem State.classifyFrame_of_arp {s : State} {len : Nat} (hlen : 14 ≤ len) (htype : s.be16 12 = 0x0806) :
    s.classifyFrame len = s.arpStage len s.isBroadcast := by
  have hetype : s.read16 12 = etherArp := (s.read16_eq_iff 12 _).2 htype
  simp only [State.classifyFrame, State.ethernetStage, if_pos hlen, if_pos hetype]
  rfl

theorem State.classifyFrame_of_ip {s : State} {len : Nat} (hlen : 14 ≤ len) (htype : s.be16 12 = 0x0800) :
    s.classifyFrame len = s.ipStage len s.isBroadcast (s.read48 6) := by
  have hetype : s.read16 12 = etherIp := (s.read16_eq_iff 12 _).2 htype
  have hne : etherIp ≠ etherArp := by decide
  simp only [State.classifyFrame, State.ethernetStage, if_pos hlen, hetype, if_neg hne, if_true]
  rfl

theorem State.classifyFrame_of_otherType {s : State} {len : Nat} (harp : s.be16 12 ≠ 0x0806) (hip : s.be16 12 ≠ 0x0800) :
    s.classifyFrame len = s.dropped := by
  have hne : s.read16 12 ≠ etherArp ∧ s.read16 12 ≠ etherIp :=
    ⟨fun h => harp ((s.read16_eq_iff 12 _).1 h), fun h => hip ((s.read16_eq_iff 12 _).1 h)⟩
  simp only [State.classifyFrame, State.ethernetStage, if_neg hne.1, if_neg hne.2, ite_self]

/-- Settles O41: the two checks in their order, and the drop of a frame shorter than its Ethernet header. -/
theorem classifyChecksLengthThenOwnership : Obligations.ClassifyChecksLengthThenOwnership :=
  ⟨decode_encode .classify, fun _ => ⟨exec_classify_of_past, exec_classify_of_owned, fun hfits hown hshort =>
    exec_classify_of_verdict hfits hown (State.classifyFrame_of_short hshort)⟩⟩

/-! ### The ARP stages (R193-R196) -/

/-- R193: what the header of an ARP packet must hold. -/
theorem State.arpHeaderOk_iff (s : State) :
    s.arpHeaderOk = true ↔ s.be16 14 = 1 ∧ s.be16 16 = 0x0800 ∧ s.be8 18 = 6 ∧ s.be8 19 = 4 := by
  simp only [State.arpHeaderOk, Bool.and_eq_true, beq_iff_eq, s.read16_eq_iff, s.read8_eq_iff, BitVec.toNat_ofNat, and_assoc]

/-- R193: a short packet, one of another format and one of another opcode are dropped. -/
theorem State.arpStage_of_invalid {s : State} {len : Nat} (bc : Bool)
    (h : len < 42 ∨ s.be16 14 ≠ 1 ∨ s.be16 16 ≠ 0x0800 ∨ s.be8 18 ≠ 6 ∨ s.be8 19 ≠ 4 ∨
      (s.be16 20 ≠ 1 ∧ s.be16 20 ≠ 2)) :
    s.arpStage len bc = s.dropped := by
  by_cases hlen : len < 42
  · exact if_pos hlen
  · by_cases hhdr : s.arpHeaderOk = true
    · have hop : s.be16 20 ≠ 1 ∧ s.be16 20 ≠ 2 := by
        have hformat := s.arpHeaderOk_iff.1 hhdr
        omega
      simp only [State.arpStage, hlen, hhdr, s.read16_eq_iff, BitVec.toNat_ofNat]
      simp [hop]
    · simp [State.arpStage, hlen, hhdr]

/-- R193: a valid ARP frame reaches the stage of its opcode. -/
theorem State.arpFrame.classifyFrame_eq {s : State} {oper : Nat} (h : s.arpFrame oper) :
    s.classifyFrame s.arg0.toNat =
      if oper = 1 then s.arpRequest s.isBroadcast (s.read48 22) (s.read32 28) (s.read32 38)
      else if oper = 2 then s.arpReply s.isBroadcast (s.read48 22) (s.read32 28)
      else s.dropped := by
  obtain ⟨-, -, hlen, htype, hhtype, hptype, hhlen, hplen, rfl⟩ := h
  have hhdr : s.arpHeaderOk = true := s.arpHeaderOk_iff.2 ⟨hhtype, hptype, hhlen, hplen⟩
  rw [State.classifyFrame_of_arp (by omega) htype]
  simp only [State.arpStage, if_neg (Nat.not_lt.2 hlen), hhdr, Bool.not_true, Bool.false_eq_true, if_false, s.read16_eq_iff]
  rfl

/-- R194: a request for another address, or with no address of our own, is dropped. -/
theorem State.arpRequest_of_notForUs {s : State} (bc : Bool) (sha : Mac) (spa : IPv4)
    (h : s.localIp = 0#32 ∨ s.be32 38 ≠ s.localIp.toNat) : s.arpRequest bc sha spa (s.read32 38) = s.dropped :=
  if_pos (h.imp_right fun hne htpa => hne (by rw [← s.read32_toNat, htpa]))

/-- R195: a request for our address is answered. -/
theorem State.arpRequest_of_forUs {s : State} (bc : Bool) (sha : Mac) (spa : IPv4) (hours : s.localIp ≠ 0#32)
    (h : s.be32 38 = s.localIp.toNat) :
    s.arpRequest bc sha spa (s.read32 38) =
      ({ (s.learn spa sha).writeArpFrame sha 2#16 sha spa with own := .tx },
        ⟨classWord 0#4 bc 0#6 0#8 0#2 1#4, spa, 0#32, 42#32⟩) := by
  have htpa : s.read32 38 = s.localIp := by rw [← BitVec.toNat_inj, s.read32_toNat, h]
  exact if_neg (not_or.2 ⟨hours, Decidable.not_not.2 htpa⟩)

/-- Building an ARP frame writes BUF alone, and the frame then stands at its start. -/
theorem State.writeArpFrame_staged (s : State) (dst : Mac) (oper : Half) (tha : Mac) (tpa : IPv4) :
    ∃ m, s.writeArpFrame dst oper tha tpa = { s with buf := m } ∧
      ∀ t : State, t.buf = m → t.powerOns = s.powerOns → s.frameStaged t (s.arpFrameBytes dst oper tha tpa) := by
  refine ⟨_, s.writeArpFrame_frame dst oper tha tpa, fun t hbuf hon a => ?_⟩
  rw [← s.bufByte_writeArpFrame dst oper tha tpa a]
  exact State.bufByte_congr hbuf (hon.trans (s.writeArpFrame_powerOns dst oper tha tpa).symm) a

/-- The bytes of an ARP frame are built from the configuration registers, which learning leaves. -/
theorem State.arpFrameBytes_learn (s : State) (ip : IPv4) (mac dst : Mac) (oper : Half) (tha : Mac) (tpa : IPv4) :
    (s.learn ip mac).arpFrameBytes dst oper tha tpa = s.arpFrameBytes dst oper tha tpa := by
  rw [(s.learn_frame ip mac).1]
  rfl

/-- A frame staged over BUF as learning leaves it, which is BUF as before. -/
theorem State.frameStaged_learn {s t : State} {ip : IPv4} {mac : Mac} {bs : List Byte}
    (h : (s.learn ip mac).frameStaged t bs) : s.frameStaged t bs := by
  intro a
  rw [h a, s.bufByte_learn ip mac a]

theorem State.arpFrame.free {s : State} {oper : Nat} (h : s.arpFrame oper) : s.own = .free := by
  obtain ⟨hown, -⟩ := h
  exact hown

theorem State.arpFrame.fits {s : State} {oper : Nat} (h : s.arpFrame oper) : s.arg0.toNat ≤ s.fixed.bufSize := by
  obtain ⟨-, hfits, -⟩ := h
  exact hfits

/-- Settles O42: the request stage; the reply is the 42 bytes of `State.arpFrameBytes`, over a state that differs from `s` in the
cache alone. -/
theorem classifyAnswersArpRequest : Obligations.ClassifyAnswersArpRequest := by
  refine ⟨fun s hframe hnot => ?_, fun s hframe hours htpa sha spa hsha hspa => ?_⟩
  · have hverdict := hframe.classifyFrame_eq
    rw [if_pos rfl, State.arpRequest_of_notForUs _ _ _ hnot] at hverdict
    exact exec_classify_of_verdict hframe.fits hframe.free hverdict
  · obtain ⟨m, hwrite, hstaged⟩ := (s.learn spa sha).writeArpFrame_staged sha 2#16 sha spa
    have hverdict := hframe.classifyFrame_eq
    rw [if_pos rfl, State.arpRequest_of_forUs _ _ _ hours htpa, s.read48_eq, s.read32_eq, ← hsha, ← hspa,
      s.classWord_arp, hwrite] at hverdict
    rw [s.arpFrameBytes_learn] at hstaged
    exact ⟨_, exec_classify_of_verdict hframe.fits hframe.free hverdict, rfl,
      State.frameStaged_learn (hstaged _ rfl rfl)⟩

/-- Settles O43: the reply stage. -/
theorem classifyLearnsArpReply : Obligations.ClassifyLearnsArpReply := by
  intro s hframe sha spa hsha hspa
  have hverdict := hframe.classifyFrame_eq
  rw [if_neg (by decide), if_pos rfl, State.arpReply, s.read48_eq, s.read32_eq, ← hsha, ← hspa, s.classWord_arp] at hverdict
  exact exec_classify_of_verdict hframe.fits hframe.free hverdict

end Sys2Proof.Machine
end

section
/-! PROOFS of the family `44_dispatcher`: the IP stages (spec/44_dispatcher.md rules R197-R205). The protocol stages run on the
state in which the sender is learned, which differs from the state before in the ARP cache alone; so what they read and look up is what
stood there before. -/

namespace Sys2Proof.Machine

/-! ### The IP stage (R197-R200) -/

/-- R197, R198: a short packet, one of bad structure and one that is not accepted are dropped. -/
theorem State.ipStage_of_rejected {s : State} {len : Nat} (smac : Mac)
    (h : len < 34 ∨ ¬ s.ipHeader.structureOk len = true ∨ ¬ s.ipAccepted (s.be8 23)) :
    s.ipStage len s.isBroadcast smac = s.dropped := by
  simp only [State.ipStage, Bool.not_eq_true', Bool.not_eq_true] at h ⊢
  by_cases hlen : len < 34
  · rw [if_pos hlen]
  · by_cases hstructure : s.ipHeader.structureOk len = false
    · rw [if_neg hlen, if_pos hstructure]
    · have haccept : s.ipAccepts s.ipHeader s.isBroadcast = false := by
        rw [← Bool.not_eq_true, s.ipAccepts_iff]
        exact (h.resolve_left hlen).resolve_left hstructure
      rw [if_neg hlen, if_neg hstructure, if_pos haccept]

/-- R199, R200: the sender of an accepted packet is learned, then its protocol's stage runs. -/
theorem State.ipStage_of_accepted {s : State} {len : Nat} (smac : Mac) (hlen : 34 ≤ len)
    (hstructure : s.ipHeader.structureOk len = true) (haccept : s.ipAccepted (s.be8 23)) :
    s.ipStage len s.isBroadcast smac = (s.learn s.ipHeader.src smac).protocolStage s.ipHeader s.isBroadcast := by
  simp only [State.ipStage, if_neg (Nat.not_lt.2 hlen), hstructure, s.ipAccepts_iff.2 haccept, Bool.not_true,
    Bool.false_eq_true, if_false]

section
variable {s : State} {ihl tot proto : Nat}

/-- R90: the header of an IP frame. -/
theorem State.ipFrame.header (h : s.ipFrame ihl tot proto) :
    s.ipHeader.ihl.toNat = ihl ∧ s.ipHeader.payload = 14 + 4 * ihl ∧ s.ipHeader.payloadLen = tot - 4 * ihl := by
  obtain ⟨-, -, -, -, hversion, -, hle, htotal, -⟩ := h
  have hihl : s.be8 14 % 16 = ihl := by omega
  rw [IpHeader.payload, IpHeader.payloadLen, s.ipHeader_bytes, s.ipHeader_ihl_toNat, s.ipHeader_total, hihl, htotal]
  exact ⟨rfl, rfl, rfl⟩

theorem State.ipFrame.extent_lt (h : s.ipFrame ihl tot proto) : ihl < 2 ^ 4 ∧ tot < 2 ^ 16 := by
  obtain ⟨-, -, -, -, -, -, hle, rfl, -⟩ := h
  exact ⟨Nat.lt_succ_of_le hle, s.be16_lt 16⟩

theorem State.ipFrame.proto_eq_iff (h : s.ipFrame ihl tot proto) (v : Byte) : s.ipHeader.proto = v ↔ proto = v.toNat := by
  obtain ⟨-, -, -, -, -, -, -, -, -, -, rfl⟩ := h
  exact s.ipHeader_proto_eq_iff v

/-- CLASSIFY on an accepted IP frame: its protocol's stage, on the state in which its sender is learned. -/
theorem exec_classify_of_ipFrame {u : State} {r : Report} (h : s.ipFrame ihl tot proto) (haccept : s.ipAccepted proto)
    (hv : s.ipLearned.protocolStage s.ipHeader s.isBroadcast = (u, r)) :
    exec .classify s = .next (u.reporting .ok r) := by
  obtain ⟨hown, hfits, hlen, htype, hversion, hmin, hmax, rfl, hbytes, htotal, rfl⟩ := h
  have hstructure : s.ipHeader.structureOk s.arg0.toNat = true := by
    rw [s.ipHeader_structureOk_iff]
    omega
  refine exec_classify_of_verdict hfits hown ?_
  rw [State.classifyFrame_of_ip (by omega) htype, State.ipStage_of_accepted _ hlen hstructure haccept, s.ipHeader_src,
    s.read48_eq]
  exact hv

/-- R191: the class word of an IP frame. -/
theorem State.ipFrame.classWord_eq (h : s.ipFrame ihl tot proto) (flags : BitVec 6) {idx k : Nat} (hidx : idx < 2 ^ 8)
    (hk : k < 2 ^ 2) (cls : BitVec 4) :
    classWord s.ipHeader.ihl s.isBroadcast flags (BitVec.ofNat 8 idx) (BitVec.ofNat 2 k) cls =
      BitVec.ofNat 32 (ihl * 2 ^ 24 + s.bcastBit + flags.toNat * 2 ^ 16 + idx * 2 ^ 8 + k * 2 ^ 4 + cls.toNat) := by
  obtain ⟨hihl, -, -⟩ := h.header
  rw [classWord_eq_ofNat, s.bcastBit_eq, hihl, BitVec.toNat_ofNat, BitVec.toNat_ofNat, Nat.mod_eq_of_lt hidx,
    Nat.mod_eq_of_lt hk]

end

/-- R191: the word of the two ports at the start of a UDP or TCP header. -/
theorem State.portsWord_eq (s : State) (a b : Nat) :
    pairWord (s.read16 a) (s.read16 b) = BitVec.ofNat 32 (s.be16 a * 2 ^ 16 + s.be16 b) := by
  rw [pairWord_eq_ofNat, s.read16_toNat, s.read16_toNat]

/-! ### What learning leaves (R163, R199) -/

theorem State.be16_ipLearned (s : State) (a : Nat) : s.ipLearned.be16 a = s.be16 a := by
  rw [State.ipLearned, (s.learn_frame _ _).1]
  rfl

theorem State.demux_ipLearned (s : State) (tb : Table) (sip : IPv4) (sport dport : Half) :
    s.ipLearned.demux tb sip sport dport = s.demux tb sip sport dport := by
  rw [State.ipLearned, (s.learn_frame _ _).1]
  cases tb <;> rfl

/-! ### The demultiplexer (R203) -/

theorem State.DemuxAnswers.demux_eq {s : State} {tb : Table} {sip : IPv4} {sport dport : Half} {k idx : Nat}
    (h : s.DemuxAnswers tb sip sport dport k idx) : s.demux tb sip sport dport = (BitVec.ofNat 2 k, idx) := by
  rcases h with ⟨hsess, rfl⟩ | ⟨hno, happ, rfl⟩ | ⟨hno, hnoApp, rfl, rfl⟩
  · simp only [State.demux, (s.findTuple_eq_some_iff ..).2 hsess]
  · simp only [State.demux, (s.findTuple_eq_none_iff ..).2 hno, (s.findApp_eq_some_iff ..).2 happ]
  · simp only [State.demux, (s.findTuple_eq_none_iff ..).2 hno, (s.findApp_eq_none_iff ..).2 hnoApp]

/-- After the sender is learned the demultiplexer still answers so. -/
theorem State.DemuxAnswers.demux_ipLearned {s : State} {tb : Table} {p k idx : Nat}
    (h : s.DemuxAnswers tb (BitVec.ofNat 32 (s.be32 26)) (BitVec.ofNat 16 (s.be16 p)) (BitVec.ofNat 16 (s.be16 (p + 2))) k idx) :
    s.ipLearned.demux tb s.ipHeader.src (BitVec.ofNat 16 (s.ipLearned.be16 p)) (BitVec.ofNat 16 (s.ipLearned.be16 (p + 2))) =
      (BitVec.ofNat 2 k, idx) := by
  rw [s.demux_ipLearned, s.ipHeader_src, s.be16_ipLearned, s.be16_ipLearned]
  exact h.demux_eq

/-- With capacities of at most 254 (R7) the answer fits its fields of RES0. -/
theorem State.DemuxAnswers.lt {s : State} {tb : Table} {sip : IPv4} {sport dport : Half} {k idx : Nat}
    (h : s.DemuxAnswers tb sip sport dport k idx) (hsess : s.nSess tb ≤ 254) (happ : s.nApp tb ≤ 254) :
    idx < 2 ^ 8 ∧ k < 2 ^ 2 := by
  rcases h with ⟨⟨hlt, -⟩, rfl⟩ | ⟨-, ⟨hlt, -⟩, rfl⟩ | ⟨-, -, rfl, rfl⟩ <;> omega

/-! ### The protocol stages (R200-R202, R205) -/

theorem State.protocolStage_of_icmp {s : State} {h : IpHeader} (bc : Bool) (hp : h.proto = protoIcmp) :
    s.protocolStage h bc = s.icmpStage h bc := by
  rw [State.protocolStage, hp]
  rfl

theorem State.protocolStage_of_udp {s : State} {h : IpHeader} (bc : Bool) (hp : h.proto = protoUdp) :
    s.protocolStage h bc = s.udpStage h bc := by
  rw [State.protocolStage, hp]
  rfl

theorem State.protocolStage_of_tcp {s : State} {h : IpHeader} (bc : Bool) (hp : h.proto = protoTcp) :
    s.protocolStage h bc = s.tcpStage h bc := by
  rw [State.protocolStage, hp]
  rfl

theorem State.protocolStage_of_unknown {s : State} {h : IpHeader} (bc : Bool) (hicmp : h.proto ≠ protoIcmp)
    (hudp : h.proto ≠ protoUdp) (htcp : h.proto ≠ protoTcp) : s.protocolStage h bc = s.dropped := by
  rw [State.protocolStage, if_neg hicmp, if_neg hudp, if_neg htcp]

theorem State.udpStage_of_badLengths {s : State} {h : IpHeader} (bc : Bool)
    (hbad : h.payloadLen < 8 ∨ s.be16 (h.payload + 4) < 8 ∨ h.payloadLen < s.be16 (h.payload + 4)) :
    s.udpStage h bc = s.dropped := by
  simp only [State.udpStage, s.read16_toNat]
  by_cases hshort : h.payloadLen < 8
  · rw [if_pos hshort]
  · rw [if_neg hshort, if_pos (hbad.resolve_left hshort)]

theorem State.udpStage_of_goodLengths {s : State} {h : IpHeader} (bc : Bool) {p ulen : Nat} {found : BitVec 2 × Nat}
    (hp : h.payload = p) (hulen : ulen = s.be16 (p + 4)) (hmin : 8 ≤ ulen) (hmax : ulen ≤ h.payloadLen)
    (hfound : s.demux .udp h.src (BitVec.ofNat 16 (s.be16 p)) (BitVec.ofNat 16 (s.be16 (p + 2))) = found) :
    s.udpStage h bc = ({ s with own := .rx },
      ⟨classWord h.ihl bc 0#6 (BitVec.ofNat 8 found.2) found.1 4#4, h.src,
        BitVec.ofNat 32 (s.be16 p * 2 ^ 16 + s.be16 (p + 2)), extentWord (p + 8) (ulen - 8)⟩) := by
  subst hp hulen
  rw [← s.read16_eq, ← s.read16_eq] at hfound
  simp only [State.udpStage, s.read16_toNat, s.portsWord_eq, hfound]
  rw [if_neg (by omega), if_neg (by omega)]

/-- R92: the header-length and flags word of a TCP header. -/
theorem State.tcpDataOffset_eq (s : State) (a : Nat) : ((s.read16 a).extractLsb' 12 4).toNat = s.be16 a / 2 ^ 12 := by
  have hlt := s.be16_lt a
  rw [BitVec.extractLsb'_toNat, s.read16_toNat, Nat.shiftRight_eq_div_pow]
  omega

theorem State.tcpFlags_eq (s : State) (a : Nat) : ((s.read16 a).extractLsb' 0 6).toNat = s.be16 a % 2 ^ 6 := by
  rw [BitVec.extractLsb'_toNat, s.read16_toNat, Nat.shiftRight_zero]

theorem State.tcpStage_of_badLengths {s : State} {h : IpHeader} (bc : Bool)
    (hbad : h.payloadLen < 20 ∨ s.be16 (h.payload + 12) / 2 ^ 12 < 5 ∨
      h.payloadLen < 4 * (s.be16 (h.payload + 12) / 2 ^ 12)) :
    s.tcpStage h bc = s.dropped := by
  simp only [State.tcpStage, s.tcpDataOffset_eq]
  by_cases hshort : h.payloadLen < 20
  · rw [if_pos hshort]
  · rw [if_neg hshort, if_pos (hbad.resolve_left hshort)]

theorem State.tcpStage_of_goodLengths {s : State} {h : IpHeader} (bc : Bool) {p doff : Nat} {found : BitVec 2 × Nat}
    (hp : h.payload = p) (hdoff : doff = s.be16 (p + 12) / 2 ^ 12) (hmin : 5 ≤ doff) (hlen : 20 ≤ h.payloadLen)
    (hmax : 4 * doff ≤ h.payloadLen)
    (hfound : s.demux .tcp h.src (BitVec.ofNat 16 (s.be16 p)) (BitVec.ofNat 16 (s.be16 (p + 2))) = found) :
    s.tcpStage h bc = ({ s with own := .rx },
      ⟨classWord h.ihl bc ((s.read16 (p + 12)).extractLsb' 0 6) (BitVec.ofNat 8 found.2) found.1 5#4, h.src,
        BitVec.ofNat 32 (s.be16 p * 2 ^ 16 + s.be16 (p + 2)), extentWord (p + 4 * doff) (h.payloadLen - 4 * doff)⟩) := by
  subst hp hdoff
  rw [← s.read16_eq, ← s.read16_eq] at hfound
  simp only [State.tcpStage, s.tcpDataOffset_eq, s.portsWord_eq, hfound]
  rw [if_neg (by omega), if_neg (by omega)]

/-! ### The statements -/

/-- Settles O44: acceptance, then the ICMP stage. -/
theorem classifyReportsIcmp : Obligations.ClassifyReportsIcmp := by
  intro s ihl tot h haccept
  obtain ⟨-, hpayload, hpayloadLen⟩ := h.header
  obtain ⟨hihl, htot⟩ := h.extent_lt
  have hclass : classWord s.ipHeader.ihl s.isBroadcast 0#6 0#8 0#2 3#4 = BitVec.ofNat 32 (ihl * 2 ^ 24 + s.bcastBit + 3) := by
    simpa using h.classWord_eq 0#6 (idx := 0) (k := 0) (by decide) (by decide) 3#4
  have hverdict := s.ipLearned.protocolStage_of_icmp s.isBroadcast ((h.proto_eq_iff protoIcmp).2 rfl)
  rw [State.icmpStage, hclass, s.ipHeader_src, hpayload, hpayloadLen, extentWord_eq_ofNat (by omega) (by omega)] at hverdict
  exact exec_classify_of_ipFrame h haccept hverdict

/-- Settles O45: acceptance, then the UDP stage for bad and for good lengths. -/
theorem classifyReportsUdp : Obligations.ClassifyReportsUdp := by
  refine ⟨fun s ihl tot p h haccept hp hbad => ?_,
    fun s ihl tot p ulen k idx h haccept hsess happ hp hulen hmin hmax hdemux => ?_⟩
  · obtain ⟨-, hpayload, hpayloadLen⟩ := h.header
    rw [hp, ← hpayload, ← hpayloadLen, ← s.be16_ipLearned] at hbad
    have hverdict := s.ipLearned.protocolStage_of_udp s.isBroadcast ((h.proto_eq_iff protoUdp).2 rfl)
    rw [State.udpStage_of_badLengths _ hbad] at hverdict
    exact exec_classify_of_ipFrame h haccept hverdict
  · obtain ⟨-, hpayload, hpayloadLen⟩ := h.header
    obtain ⟨hihl, htot⟩ := h.extent_lt
    obtain ⟨hidx, hk⟩ := hdemux.lt hsess happ
    have hclass : classWord s.ipHeader.ihl s.isBroadcast 0#6 (BitVec.ofNat 8 idx) (BitVec.ofNat 2 k) 4#4 =
        BitVec.ofNat 32 (ihl * 2 ^ 24 + s.bcastBit + idx * 2 ^ 8 + k * 2 ^ 4 + 4) := by
      simpa using h.classWord_eq 0#6 hidx hk 4#4
    rw [← s.be16_ipLearned] at hulen
    rw [← hpayloadLen] at hmax
    have hverdict := s.ipLearned.protocolStage_of_udp s.isBroadcast ((h.proto_eq_iff protoUdp).2 rfl)
    rw [State.udpStage_of_goodLengths _ (hpayload.trans hp.symm) hulen hmin hmax hdemux.demux_ipLearned, hclass,
      s.ipHeader_src, s.be16_ipLearned, s.be16_ipLearned, extentWord_eq_ofNat (by omega) (by omega)] at hverdict
    exact exec_classify_of_ipFrame h haccept hverdict

/-- Settles O46: acceptance, then the TCP stage for bad and for good lengths. -/
theorem classifyReportsTcp : Obligations.ClassifyReportsTcp := by
  refine ⟨fun s ihl tot p h haccept hp hbad => ?_,
    fun s ihl tot p hw doff k idx h haccept hsess happ hp hhw hdoff hmin hlen hmax hdemux => ?_⟩
  · obtain ⟨-, hpayload, hpayloadLen⟩ := h.header
    rw [hp, ← hpayload, ← hpayloadLen, ← s.be16_ipLearned] at hbad
    have hverdict := s.ipLearned.protocolStage_of_tcp s.isBroadcast ((h.proto_eq_iff protoTcp).2 rfl)
    rw [State.tcpStage_of_badLengths _ hbad] at hverdict
    exact exec_classify_of_ipFrame h haccept hverdict
  · obtain ⟨-, hpayload, hpayloadLen⟩ := h.header
    obtain ⟨hihl, htot⟩ := h.extent_lt
    obtain ⟨hidx, hk⟩ := hdemux.lt hsess happ
    have hflags := s.ipLearned.tcpFlags_eq (p + 12)
    have hclass := h.classWord_eq ((s.ipLearned.read16 (p + 12)).extractLsb' 0 6) hidx hk 5#4
    rw [hflags, s.be16_ipLearned, ← hhw] at hclass
    have hdoff_lt : doff < 2 ^ 4 := by
      have hlt := s.be16_lt (p + 12)
      omega
    rw [hhw, ← s.be16_ipLearned] at hdoff
    rw [← hpayloadLen] at hlen hmax
    have hverdict := s.ipLearned.protocolStage_of_tcp s.isBroadcast ((h.proto_eq_iff protoTcp).2 rfl)
    rw [State.tcpStage_of_goodLengths _ (hpayload.trans hp.symm) hdoff hmin hlen hmax hdemux.demux_ipLearned, hclass,
      s.ipHeader_src, s.be16_ipLearned, s.be16_ipLearned, hpayloadLen, extentWord_eq_ofNat (by omega) (by omega)] at hverdict
    exact exec_classify_of_ipFrame h haccept hverdict

/-- Settles O47: each reason for a drop, at the stage that finds it. -/
theorem classifyDropsTheRest : Obligations.ClassifyDropsTheRest := by
  refine ⟨fun s hown hfits hlen hreason => ?_, fun s ihl tot proto h haccept hicmp htcp hudp => ?_⟩
  · have hverdict : s.classifyFrame s.arg0.toNat = s.dropped := by
      obtain ⟨harp, hip⟩ | ⟨harp, hbad⟩ | ⟨hip, hbad⟩ := hreason
      · exact State.classifyFrame_of_otherType harp hip
      · rw [State.classifyFrame_of_arp hlen harp]
        exact State.arpStage_of_invalid _ hbad
      · rw [State.classifyFrame_of_ip hlen hip]
        refine State.ipStage_of_rejected _ ?_
        rw [s.ipHeader_structureOk_iff]
        by_cases haccept : s.ipAccepted (s.be8 23)
        · simp only [haccept, not_true_eq_false, or_false] at hbad ⊢
          omega
        · exact .inr (.inr haccept)
    exact exec_classify_of_verdict hfits hown hverdict
  · have hverdict : s.ipLearned.protocolStage s.ipHeader s.isBroadcast = s.ipLearned.dropped :=
      State.protocolStage_of_unknown _ (mt (h.proto_eq_iff _).1 hicmp) (mt (h.proto_eq_iff _).1 hudp)
        (mt (h.proto_eq_iff _).1 htcp)
    exact exec_classify_of_ipFrame h haccept hverdict

end Sys2Proof.Machine
end

section
/-! PROOFS of the family `44_dispatcher`: CLASSIFY reads the frame alone (spec/44_dispatcher.md rule R190). Two runs are followed side
by side: the states agree below the frame's length, every stage reads below it, and so every stage answers alike and leaves states
that agree there. -/

namespace Sys2Proof.Machine

/-! ### Agreement below a length -/

/-- The two states differ in BUF alone, and there at or beyond `len` alone. -/
def State.AgreesBelow (len : Nat) (s t : State) : Prop :=
  ∃ m, t = { s with buf := m } ∧ ∀ a, a < len → t.bufByte a = s.bufByte a

/-- The same report, and states that agree below `len`. -/
def Verdict.AgreesBelow (len : Nat) (v w : Verdict) : Prop := v.1.AgreesBelow len w.1 ∧ w.2 = v.2

section
variable {len : Nat} {s t : State}

/-! ### What agreeing states read and look up -/

theorem State.AgreesBelow.memRead_eq (h : s.AgreesBelow len t) {off n : Nat} (hin : off + n ≤ len) :
    t.memRead off n = s.memRead off n := by
  obtain ⟨m, -, hbyte⟩ := h
  refine congrArg beValue (List.map_congr_left fun k hk => ?_)
  rw [List.mem_range] at hk
  exact hbyte _ (by omega)

theorem State.AgreesBelow.read8_eq (h : s.AgreesBelow len t) {off : Nat} (hin : off + 1 ≤ len) : t.read8 off = s.read8 off :=
  congrArg (BitVec.ofNat 8) (h.memRead_eq hin)

theorem State.AgreesBelow.read16_eq (h : s.AgreesBelow len t) {off : Nat} (hin : off + 2 ≤ len) : t.read16 off = s.read16 off :=
  congrArg (BitVec.ofNat 16) (h.memRead_eq hin)

theorem State.AgreesBelow.read32_eq (h : s.AgreesBelow len t) {off : Nat} (hin : off + 4 ≤ len) : t.read32 off = s.read32 off :=
  congrArg (BitVec.ofNat 32) (h.memRead_eq hin)

theorem State.AgreesBelow.read48_eq (h : s.AgreesBelow len t) {off : Nat} (hin : off + 6 ≤ len) : t.read48 off = s.read48 off :=
  congrArg (BitVec.ofNat 48) (h.memRead_eq hin)

theorem State.AgreesBelow.arpHeaderOk_eq (h : s.AgreesBelow len t) (hlen : 20 ≤ len) : t.arpHeaderOk = s.arpHeaderOk := by
  rw [State.arpHeaderOk, h.read16_eq (by omega), h.read16_eq (by omega), h.read8_eq (by omega), h.read8_eq (by omega)]
  rfl

theorem State.AgreesBelow.ipHeader_eq (h : s.AgreesBelow len t) (hlen : 34 ≤ len) : t.ipHeader = s.ipHeader := by
  rw [State.ipHeader, h.read8_eq (by omega), h.read16_eq (by omega), h.read8_eq (by omega), h.read32_eq (by omega),
    h.read32_eq (by omega)]
  rfl

theorem State.AgreesBelow.localIp_eq (h : s.AgreesBelow len t) : t.localIp = s.localIp := by
  obtain ⟨m, rfl, -⟩ := h
  rfl

theorem State.AgreesBelow.demux_eq (h : s.AgreesBelow len t) (tb : Table) (sip : IPv4) (sport dport : Half) :
    t.demux tb sip sport dport = s.demux tb sip sport dport := by
  obtain ⟨m, rfl, -⟩ := h
  cases tb <;> rfl

/-! ### What agreeing states become -/

theorem State.AgreesBelow.withOwn (h : s.AgreesBelow len t) (o : Own) :
    ({ s with own := o } : State).AgreesBelow len { t with own := o } := by
  obtain ⟨m, rfl, hbyte⟩ := h
  exact ⟨m, rfl, hbyte⟩

theorem State.AgreesBelow.ended (h : s.AgreesBelow len t) (c : ResultCode) :
    ({ s with rc := c, busy := false } : State).AgreesBelow len { t with rc := c, busy := false } := by
  obtain ⟨m, rfl, hbyte⟩ := h
  exact ⟨m, rfl, hbyte⟩

theorem State.AgreesBelow.reporting (h : s.AgreesBelow len t) (c : ResultCode) (r : Report) :
    (s.reporting c r).AgreesBelow len (t.reporting c r) := by
  obtain ⟨m, rfl, hbyte⟩ := h
  exact ⟨m, rfl, hbyte⟩

/-- Learning neither reads nor writes BUF. -/
theorem State.learn_with_buf (s : State) (m : Memory) (ip : IPv4) (mac : Mac) :
    ({ s with buf := m } : State).learn ip mac = { s.learn ip mac with buf := m } := by
  have hcache : (({ s with buf := m } : State).learn ip mac).arp = (s.learn ip mac).arp :=
    State.learn_arp_congr (s := s) (t := { s with buf := m }) rfl rfl rfl rfl rfl ip mac
  rw [(State.learn_frame { s with buf := m } ip mac).1, hcache, (s.learn_frame ip mac).1]

theorem State.AgreesBelow.learn (h : s.AgreesBelow len t) (ip : IPv4) (mac : Mac) :
    (s.learn ip mac).AgreesBelow len (t.learn ip mac) := by
  obtain ⟨m, rfl, hbyte⟩ := h
  refine ⟨m, s.learn_with_buf m ip mac, fun a ha => ?_⟩
  rw [State.bufByte_learn, s.bufByte_learn, hbyte a ha]

theorem State.AgreesBelow.writeArpFrame (h : s.AgreesBelow len t) (dst : Mac) (oper : Half) (tha : Mac) (tpa : IPv4) :
    (s.writeArpFrame dst oper tha tpa).AgreesBelow len (t.writeArpFrame dst oper tha tpa) := by
  obtain ⟨m, rfl, hbyte⟩ := h
  have hbytes : ({ s with buf := m } : State).arpFrameBytes dst oper tha tpa = s.arpFrameBytes dst oper tha tpa := rfl
  refine ⟨(({ s with buf := m } : State).writeArpFrame dst oper tha tpa).buf, ?_, fun a ha => ?_⟩
  · rw [State.writeArpFrame_frame { s with buf := m }, s.writeArpFrame_frame]
  · rw [State.bufByte_writeArpFrame, hbytes, s.bufByte_writeArpFrame, hbyte a ha]

/-! ### The stages (R190-R205) -/

theorem State.AgreesBelow.dropped (h : s.AgreesBelow len t) : Verdict.AgreesBelow len s.dropped t.dropped := ⟨h, rfl⟩

theorem State.AgreesBelow.arpRequest (h : s.AgreesBelow len t) (bc : Bool) (sha : Mac) (spa tpa : IPv4) :
    Verdict.AgreesBelow len (s.arpRequest bc sha spa tpa) (t.arpRequest bc sha spa tpa) := by
  simp only [State.arpRequest, h.localIp_eq]
  split
  · exact h.dropped
  · exact ⟨((h.learn spa sha).writeArpFrame sha 2#16 sha spa).withOwn .tx, rfl⟩

theorem State.AgreesBelow.arpStage (h : s.AgreesBelow len t) (bc : Bool) :
    Verdict.AgreesBelow len (s.arpStage len bc) (t.arpStage len bc) := by
  simp only [State.arpStage]
  by_cases hlen : len < 42
  · rw [if_pos hlen, if_pos hlen]
    exact h.dropped
  · rw [if_neg hlen, if_neg hlen, h.arpHeaderOk_eq (by omega), h.read16_eq (by omega), h.read48_eq (by omega),
      h.read32_eq (by omega), h.read32_eq (by omega)]
    split
    · exact h.dropped
    · split
      · exact h.arpRequest ..
      · split
        · exact ⟨h.learn .., rfl⟩
        · exact h.dropped

theorem State.AgreesBelow.udpStage (h : s.AgreesBelow len t) {hd : IpHeader} (hin : hd.payload + hd.payloadLen ≤ len)
    (bc : Bool) : Verdict.AgreesBelow len (s.udpStage hd bc) (t.udpStage hd bc) := by
  simp only [State.udpStage]
  by_cases hshort : hd.payloadLen < 8
  · rw [if_pos hshort, if_pos hshort]
    exact h.dropped
  · rw [if_neg hshort, if_neg hshort, h.read16_eq (by omega), h.read16_eq (by omega), h.read16_eq (by omega), h.demux_eq]
    split
    · exact h.dropped
    · exact ⟨h.withOwn .rx, rfl⟩

theorem State.AgreesBelow.tcpStage (h : s.AgreesBelow len t) {hd : IpHeader} (hin : hd.payload + hd.payloadLen ≤ len)
    (bc : Bool) : Verdict.AgreesBelow len (s.tcpStage hd bc) (t.tcpStage hd bc) := by
  simp only [State.tcpStage]
  by_cases hshort : hd.payloadLen < 20
  · rw [if_pos hshort, if_pos hshort]
    exact h.dropped
  · rw [if_neg hshort, if_neg hshort, h.read16_eq (by omega), h.read16_eq (by omega), h.read16_eq (by omega), h.demux_eq]
    split
    · exact h.dropped
    · exact ⟨h.withOwn .rx, rfl⟩

theorem State.AgreesBelow.protocolStage (h : s.AgreesBelow len t) {hd : IpHeader} (hin : hd.payload + hd.payloadLen ≤ len)
    (bc : Bool) : Verdict.AgreesBelow len (s.protocolStage hd bc) (t.protocolStage hd bc) := by
  simp only [State.protocolStage]
  split
  · exact ⟨h.withOwn .rx, rfl⟩
  · split
    · exact h.udpStage hin bc
    · split
      · exact h.tcpStage hin bc
      · exact h.dropped

/-- R197: a header of good structure has its payload inside the frame. -/
theorem IpHeader.payload_in_frame {hd : IpHeader} (h : hd.structureOk len = true) : hd.payload + hd.payloadLen ≤ len := by
  simp only [IpHeader.structureOk, Bool.and_eq_true, decide_eq_true_eq] at h
  obtain ⟨⟨-, hbytes⟩, htotal⟩ := h
  simp only [IpHeader.payload, IpHeader.payloadLen]
  omega

theorem State.AgreesBelow.ipStage (h : s.AgreesBelow len t) (bc : Bool) (smac : Mac) :
    Verdict.AgreesBelow len (s.ipStage len bc smac) (t.ipStage len bc smac) := by
  simp only [State.ipStage]
  by_cases hlen : len < 34
  · rw [if_pos hlen, if_pos hlen]
    exact h.dropped
  · have haccept : t.ipAccepts s.ipHeader bc = s.ipAccepts s.ipHeader bc := by
      simp only [State.ipAccepts, h.localIp_eq]
    rw [if_neg hlen, if_neg hlen, h.ipHeader_eq (by omega), haccept]
    cases hstructure : s.ipHeader.structureOk len with
    | false => exact h.dropped
    | true =>
      cases s.ipAccepts s.ipHeader bc with
      | false => exact h.dropped
      | true => exact (h.learn ..).protocolStage (IpHeader.payload_in_frame hstructure) bc

theorem State.AgreesBelow.classifyFrame (h : s.AgreesBelow len t) :
    Verdict.AgreesBelow len (s.classifyFrame len) (t.classifyFrame len) := by
  simp only [State.classifyFrame, State.ethernetStage]
  by_cases hlen : 14 ≤ len
  · rw [if_pos hlen, if_pos hlen, h.read48_eq (by omega), h.read16_eq (by omega), h.read48_eq (by omega)]
    split
    · exact h.arpStage _
    · split
      · exact h.ipStage ..
      · exact h.dropped
  · rw [if_neg hlen, if_neg hlen]
    exact h.dropped

end

/-! ### CLASSIFY (R190) -/

/-- On states that agree below the frame's length CLASSIFY ends in states that agree there. -/
theorem exec_classify_agreesBelow {s t : State} (h : s.AgreesBelow s.arg0.toNat t) :
    ∃ u w, exec .classify s = .next u ∧ exec .classify t = .next w ∧ u.AgreesBelow s.arg0.toNat w := by
  have hchecks : t.arg0 = s.arg0 ∧ t.fixed = s.fixed ∧ t.own = s.own := by
    obtain ⟨m, rfl, -⟩ := h
    exact ⟨rfl, rfl, rfl⟩
  obtain ⟨harg0, hfixed, hownEq⟩ := hchecks
  by_cases hfits : s.arg0.toNat ≤ s.fixed.bufSize
  · by_cases hown : s.own = .free
    · have hstages := h.classifyFrame
      rcases hs : s.classifyFrame s.arg0.toNat with ⟨u, r⟩
      rcases ht : t.classifyFrame s.arg0.toNat with ⟨w, r'⟩
      rw [hs, ht] at hstages
      obtain ⟨hstate, hreport : r' = r⟩ := hstages
      rw [← harg0, hreport] at ht
      exact ⟨_, _, exec_classify_of_verdict hfits hown hs,
        exec_classify_of_verdict (by rwa [harg0, hfixed]) (hownEq.trans hown) ht, hstate.reporting ..⟩
    · exact ⟨_, _, exec_classify_of_owned hfits hown, exec_classify_of_owned (by rwa [harg0, hfixed]) (by rwa [hownEq]),
        h.ended .owned⟩
  · have hpast := Nat.not_le.1 hfits
    exact ⟨_, _, exec_classify_of_past hpast, exec_classify_of_past (by rwa [harg0, hfixed]), h.ended .badOperand⟩

/-- Settles O48: the second state agrees with the first below the frame's length. -/
theorem classifyReadsOnlyTheFrame : Obligations.ClassifyReadsOnlyTheFrame := by
  intro s t m hexec hbyte
  obtain ⟨u, t', hu, ht', m', heq, hafter⟩ := exec_classify_agreesBelow (s := s) ⟨m, rfl, hbyte⟩
  rw [hu] at hexec
  cases hexec
  subst heq
  exact ⟨_, ht', rfl, hafter⟩

end Sys2Proof.Machine
end

section
/-! PROOFS of the family `44_dispatcher`: the frames the host sends, ARP_REQ and IP_TX_HDR (spec/44_dispatcher.md rules R206, R207).
The checksum of IP_TX_HDR is written into a field that is zero, so it completes the word sum of the header to a multiple of
0xFFFF. -/

namespace Sys2Proof.Machine

/-! ### ARP_REQ (R206) -/

theorem exec_arpReq_of_noKey {s : State} (h : s.redirectKey s.arg0 = 0#32) : exec .arpReq s = raise .badOperand s := by
  simp only [exec, execArpReq, s.redirect_eq, if_pos h]

theorem exec_arpReq_of_owned {s : State} (hkey : s.redirectKey s.arg0 ≠ 0#32) (hown : s.own ≠ .free) :
    exec .arpReq s = raise .owned s := by
  simp only [exec, execArpReq, s.redirect_eq, if_neg hkey, if_pos hown]

/-- Past its checks ARP_REQ stages the frame `m` holds. -/
theorem exec_arpReq_of_staged {s : State} {m : Memory} (hkey : s.redirectKey s.arg0 ≠ 0#32) (hown : s.own = .free)
    (hm : s.writeArpFrame bcastMac 1#16 0#48 (s.redirectKey s.arg0) = { s with buf := m }) :
    exec .arpReq s = complete .ok { s with buf := m, own := .tx, res0 := 42#32, res3 := s.redirectKey s.arg0 } := by
  simp only [exec, execArpReq, s.redirect_eq, if_neg hkey, hown, ne_eq, not_true_eq_false, if_false, hm]

/-- Settles O49: the key's check, the ownership check, and the staged request. -/
theorem arpReqStagesARequest : Obligations.ArpReqStagesARequest := by
  refine ⟨decode_encode .arpReq, fun s => ⟨exec_arpReq_of_noKey, exec_arpReq_of_owned, fun hkey hown => ?_⟩⟩
  obtain ⟨m, hwrite, hstaged⟩ := s.writeArpFrame_staged bcastMac 1#16 0#48 (s.redirectKey s.arg0)
  exact ⟨_, exec_arpReq_of_staged hkey hown hwrite, rfl, hstaged _ rfl rfl⟩

/-! ### The header checksum (R207) -/

section
variable (s : State) (mac : Mac) (dst : IPv4) (proto : Byte) (plen : Nat)

/-- R207: the checksum of the header, its own field zero. -/
def State.ipHeaderChecksum : Half := checksumFinal ((s.writeIpHeader mac dst proto plen).sumRange 0#32 14 20)

/-- The headers as IP_TX_HDR leaves them, the checksum in its field. -/
def State.writeIpHeaders : State :=
  (s.writeIpHeader mac dst proto plen).memWrite 24 2 (s.ipHeaderChecksum mac dst proto plen).toNat

theorem State.be8_writeIpHeader {a : Nat} {b : Byte} (h : (s.ipHeaderBytes mac dst proto plen 0#16)[a]? = some b) :
    (s.writeIpHeader mac dst proto plen).be8 a = b.toNat := by
  obtain ⟨ha, rfl⟩ := List.getElem?_eq_some_iff.1 h
  rw [State.be8, State.bufByte_writeIpHeader, dif_pos ha]

/-- The checksum field begins as zero. -/
theorem State.be16_writeIpHeader_checksum : (s.writeIpHeader mac dst proto plen).be16 24 = 0 := by
  rw [State.be16, s.be8_writeIpHeader mac dst proto plen (b := 0x00#8) rfl,
    s.be8_writeIpHeader mac dst proto plen (b := 0x00#8) rfl]
  rfl

/-- The header's first word: version 4, IHL 5. -/
theorem State.be16_writeIpHeader_first : (s.writeIpHeader mac dst proto plen).be16 14 = 0x4500 := by
  rw [State.be16, s.be8_writeIpHeader mac dst proto plen (b := 0x45#8) rfl,
    s.be8_writeIpHeader mac dst proto plen (b := 0x00#8) rfl]
  rfl

theorem State.wordSum_writeIpHeader_ne_zero : (s.writeIpHeader mac dst proto plen).wordSum 14 20 ≠ 0 := by
  rw [State.wordSum_eq_field_add _ 14 (f := 0) rfl (by decide), Nat.add_zero, State.be16_writeIpHeader_first]
  omega

theorem State.ipHeaderChecksum_toNat :
    (s.ipHeaderChecksum mac dst proto plen).toNat = checksumValue ((s.writeIpHeader mac dst proto plen).wordSum 14 20) := by
  have hsum := (s.writeIpHeader mac dst proto plen).sumRange_spec 20 14 0#32 0 (EndAroundSum_self 0#32)
  rw [Nat.zero_add] at hsum
  rw [State.ipHeaderChecksum, checksumFinal_toNat, hsum.checksumValue_eq]

/-- The checksum of a total that is not 0 completes it to a multiple of 0xFFFF, and is not 0xFFFF. -/
theorem checksumValue_of_ne_zero {total : Nat} (h : total ≠ 0) :
    (total + checksumValue total) % 0xFFFF = 0 ∧ checksumValue total ≠ 0xFFFF := by
  rw [checksumValue, if_neg h]
  split <;> omega

theorem State.ipHeaderChecksum_ne : s.ipHeaderChecksum mac dst proto plen ≠ 0xFFFF#16 := by
  obtain ⟨-, hne⟩ := checksumValue_of_ne_zero (s.wordSum_writeIpHeader_ne_zero mac dst proto plen)
  rw [ne_eq, ← BitVec.toNat_inj, s.ipHeaderChecksum_toNat]
  exact hne

theorem State.wordSum_writeIpHeaders : (s.writeIpHeaders mac dst proto plen).wordSum 14 20 % 0xFFFF = 0 := by
  obtain ⟨hmod, -⟩ := checksumValue_of_ne_zero (s.wordSum_writeIpHeader_ne_zero mac dst proto plen)
  have hfield := State.wordSum_memWrite_field _ 14 (f := 10) (len := 20) rfl (by decide)
    (s.ipHeaderChecksum mac dst proto plen).isLt (s.be16_writeIpHeader_checksum mac dst proto plen)
  rw [State.writeIpHeaders, hfield, s.ipHeaderChecksum_toNat]
  exact hmod

/-! ### The headers (R207) -/

/-- Filling the checksum field replaces two bytes of the headers. -/
theorem State.ipHeaderBytes_set_checksum (c : Half) :
    s.ipHeaderBytes mac dst proto plen c =
      ((s.ipHeaderBytes mac dst proto plen 0#16).set 24 (c.extractLsb' 8 8)).set 25 (c.extractLsb' 0 8) := rfl

theorem State.bufByte_writeIpHeaders (a : Nat) :
    (s.writeIpHeaders mac dst proto plen).bufByte a =
      if h : a < (s.ipHeaderBytes mac dst proto plen (s.ipHeaderChecksum mac dst proto plen)).length then
        (s.ipHeaderBytes mac dst proto plen (s.ipHeaderChecksum mac dst proto plen))[a]
      else s.bufByte a := by
  rw [State.writeIpHeaders, State.bufByte_memWrite, State.bufByte_writeIpHeader]
  generalize s.ipHeaderChecksum mac dst proto plen = c
  simp only [s.ipHeaderBytes_set_checksum mac dst proto plen c, List.length_set, List.getElem_set]
  by_cases hhigh : a = 24
  · subst hhigh
    rfl
  · by_cases hlow : a = 25
    · subst hlow
      rfl
    · rw [if_neg (by omega)]
      simp only [if_neg (Ne.symm hhigh), if_neg (Ne.symm hlow)]

/-- Building the headers writes BUF alone; they then stand at its start, and their words add up to a multiple of 0xFFFF. -/
theorem State.writeIpHeaders_staged :
    ∃ m, s.writeIpHeaders mac dst proto plen = { s with buf := m } ∧
      ∀ t : State, t.buf = m → t.powerOns = s.powerOns →
        s.frameStaged t (s.ipHeaderBytes mac dst proto plen (s.ipHeaderChecksum mac dst proto plen)) ∧
          t.wordSum 14 20 % 0xFFFF = 0 := by
  have hframe : s.writeIpHeaders mac dst proto plen = { s with buf := (s.writeIpHeaders mac dst proto plen).buf } := by
    rw [State.writeIpHeaders, State.memWrite, s.writeIpHeader_frame]
  refine ⟨_, hframe, fun t hbuf hon => ?_⟩
  have hbyte : ∀ a, t.bufByte a = (s.writeIpHeaders mac dst proto plen).bufByte a :=
    State.bufByte_congr hbuf (hon.trans (congrArg State.powerOns hframe).symm)
  constructor
  · intro a
    rw [hbyte, s.bufByte_writeIpHeaders]
  · rw [State.wordSum_congr fun a _ _ => hbyte a]
    exact s.wordSum_writeIpHeaders mac dst proto plen

end

/-! ### IP_TX_HDR (R207) -/

theorem State.argPayloadLen_eq (s : State) : s.argPayloadLen = s.arg1.toNat / 2 ^ 16 := by
  have hlt := s.arg1.isLt
  rw [State.argPayloadLen, highHalf, BitVec.extractLsb'_toNat, Nat.shiftRight_eq_div_pow]
  omega

theorem exec_ipTxHdr_of_past {s : State} (h : s.fixed.bufSize < 34 + s.argPayloadLen) :
    exec .ipTxHdr s = raise .badOperand s := by
  have hpast : s.inBuf 34 s.argPayloadLen = false := decide_eq_false (Nat.not_le.2 h)
  simp only [exec, execIpTxHdr, hpast, Bool.not_false, if_true]

theorem exec_ipTxHdr_of_owned {s : State} (hfits : 34 + s.argPayloadLen ≤ s.fixed.bufSize) (hown : s.own ≠ .free) :
    exec .ipTxHdr s = raise .owned s := by
  have hin : s.inBuf 34 s.argPayloadLen = true := decide_eq_true hfits
  simp only [exec, execIpTxHdr, hin, Bool.not_true, Bool.false_eq_true, if_false, if_pos hown]

/-- Past its checks IP_TX_HDR stages the headers `m` holds and reports. -/
theorem exec_ipTxHdr_of_staged {s : State} {r : Resolution} {m : Memory} (hfits : 34 + s.argPayloadLen ≤ s.fixed.bufSize)
    (hown : s.own = .free) (hr : s.resolve s.arg0 = r)
    (hm : s.writeIpHeaders r.mac s.arg0 s.argProtocol s.argPayloadLen = { s with buf := m }) :
    exec .ipTxHdr s = complete .ok { s with
      buf := m, ipId := s.ipId + 1#16, own := .tx
      res0 := natWord (34 + s.argPayloadLen)
      res1 := halfWord (s.ipHeaderChecksum r.mac s.arg0 s.argProtocol s.argPayloadLen)
      res2 := hitWord r.bcast r.hit, res3 := r.key } := by
  have hin : s.inBuf 34 s.argPayloadLen = true := decide_eq_true hfits
  rw [State.writeIpHeaders, State.ipHeaderChecksum] at hm
  simp only [exec, execIpTxHdr, hin, Bool.not_true, Bool.false_eq_true, if_false, hown, ne_eq, not_true_eq_false, hr, hm]
  rfl

/-- Settles O50: the two checks, the resolution of the destination, and the staged headers. -/
theorem ipTxHdrBuildsTheHeaders : Obligations.IpTxHdrBuildsTheHeaders := by
  refine ⟨decode_encode .ipTxHdr, fun s plen hplen => ?_⟩
  rw [← s.argPayloadLen_eq] at hplen
  subst hplen
  refine ⟨exec_ipTxHdr_of_past, exec_ipTxHdr_of_owned, fun mac k key hfits hown hres => ?_⟩
  obtain ⟨hresolve, hk⟩ := State.resolve_of_ResolvesTo hres
  obtain ⟨m, hwrite, hstaged⟩ := s.writeIpHeaders_staged mac s.arg0 s.argProtocol s.argPayloadLen
  have hexec := exec_ipTxHdr_of_staged hfits hown hresolve hwrite
  rw [hitWord_eq_ofNat hk, ← halfWord_eq] at hexec
  exact ⟨_, _, hexec, rfl, and_assoc.1 ⟨hstaged _ rfl rfl, s.ipHeaderChecksum_ne _ _ _ _⟩⟩

end Sys2Proof.Machine
end

section
/-! PROOFS of the family `45_sockets`: a table after a write to one slot (spec/45_sockets.md rules R230, R233-R237, R240), as
`State.appsUpdated` and `State.sessionsUpdated` state it. Both depend on the tables alone, so a command's report does not
matter to them. -/

namespace Sys2Proof.Machine

/-! ### One application slot -/

theorem State.appsUpdated_setApp {s : State} {tb : Table} {j : Nat} (a : App) (hj : j < s.nApp tb) :
    s.appsUpdated (s.setApp tb j a) tb j a := by
  refine ⟨fun tb' => s.nApp_setApp tb tb' j a, ?_, fun tb' j' hother => ?_⟩
  · rw [State.appAt_setApp, if_pos ⟨rfl, rfl, hj⟩]
  · rw [State.appAt_setApp, if_neg fun h => hother ⟨h.1.symm, h.2.1.symm⟩]

theorem State.appsUpdated.congr {s t u : State} {tb : Table} {j : Nat} {a : App} (h : s.appsUpdated t tb j a)
    (hudp : u.appUdp = t.appUdp) (htcp : u.appTcp = t.appTcp) : s.appsUpdated u tb j a := by
  have hn : ∀ tb', u.nApp tb' = t.nApp tb' := fun tb' => by cases tb' <;> simp only [State.nApp, hudp, htcp]
  have hat : ∀ tb' j', u.appAt tb' j' = t.appAt tb' j' := fun tb' j' => by
    cases tb' <;> simp only [State.appAt, hudp, htcp]
  simpa only [State.appsUpdated, hn, hat] using h

/-! ### One session slot -/

theorem State.sessionsUpdated_newSess {s : State} {tb : Table} {i : Nat} (e : Session) (hi : i < s.nSess tb) :
    s.sessionsUpdated (s.newSess tb i e) tb i e := by
  refine ⟨fun tb' => s.nSess_newSess tb tb' i e, ?_, fun i' hother => ?_, fun i' hother => ?_⟩
  · rw [State.sessAt_newSess, if_pos ⟨rfl, rfl, hi⟩]
  · rw [State.udpAt_newSess, if_neg fun h => hother ⟨h.1, h.2.1.symm⟩]
  · rw [State.tcpAt_newSess, if_neg fun h => hother ⟨h.1, h.2.1.symm⟩]

/-- R237, R38: a freed slot keeps every field but `socket`. -/
theorem State.sessionsUpdated_freeSlot {s : State} {tb : Table} {i : Nat} (hi : i < s.nSess tb) :
    s.sessionsUpdated (s.freeSlot tb i) tb i { s.sessAt tb i with socket := BitVec.ofNat 8 (s.nSess tb) } := by
  rw [State.freeSlot]
  refine ⟨fun tb' => s.nSess_setSess tb tb' i _, ?_, fun i' hother => ?_, fun i' hother => ?_⟩
  · rw [State.sessAt_setSess, if_pos ⟨rfl, rfl, hi⟩]
  · rw [State.udpAt_setSess, if_neg fun h => hother ⟨h.1, h.2.1.symm⟩]
  · rw [State.tcpAt_setSess, if_neg fun h => hother ⟨h.1, h.2.1.symm⟩]

/-- R237: a freed TCP slot keeps the fields of R32 too. -/
theorem State.tcpAt_freeSlot {s : State} {i : Nat} (hi : i < s.nSess .tcp) :
    (s.freeSlot .tcp i).tcpAt i = { s.tcpAt i with socket := BitVec.ofNat 8 (s.nSess .tcp) } := by
  rw [State.freeSlot, State.tcpAt_setSess, if_pos ⟨rfl, rfl, hi⟩]
  rfl

/-- The TCP slots after one of them is replaced. -/
theorem State.tcpAt_tcpSet (s : State) (i k : Nat) (e : TcpSession) :
    ({ s with tcp := s.tcp.set i e } : State).tcpAt k = if i = k ∧ i < s.nSess .tcp then e else s.tcpAt k := by
  simp only [State.tcpAt, List.length_set, getD_set]
  rfl

theorem State.sessionsUpdated.congr {s t u : State} {tb : Table} {i : Nat} {e : Session} (h : s.sessionsUpdated t tb i e)
    (hudp : u.udp = t.udp) (htcp : u.tcp = t.tcp) : s.sessionsUpdated u tb i e := by
  have hn : ∀ tb', u.nSess tb' = t.nSess tb' := fun tb' => by cases tb' <;> simp only [State.nSess, hudp, htcp]
  have hudpAt : ∀ i', u.udpAt i' = t.udpAt i' := fun i' => by simp only [State.udpAt, hudp]
  have htcpAt : ∀ i', u.tcpAt i' = t.tcpAt i' := fun i' => by simp only [State.tcpAt, htcp]
  have hat : u.sessAt tb i = t.sessAt tb i := by cases tb <;> simp only [State.sessAt, hudpAt, htcpAt]
  simpa only [State.sessionsUpdated, hn, hudpAt, htcpAt, hat] using h

/-- R240: TCP_SET leaves the fields of R31. -/
theorem State.sessionsUpdated_tcpSet {s t : State} {i : Nat} {e : TcpSession} (hudp : t.udp = s.udp)
    (htcp : t.tcp = s.tcp.set i e) (he : e.toSession = (s.tcpAt i).toSession) :
    s.sessionsUpdated t .tcp i (s.sessAt .tcp i) := by
  refine State.sessionsUpdated.congr (t := { s with tcp := s.tcp.set i e })
    ⟨fun tb => ?_, s.sessAt_tcpSet i e he .tcp i, fun _ _ => rfl, fun i' hother => ?_⟩ hudp htcp
  · cases tb with
    | udp => rfl
    | tcp => exact List.length_set
  · rw [State.tcpAt_tcpSet, if_neg fun h => hother ⟨rfl, h.1.symm⟩]

/-! ### Which slots are in use then (R230) -/

theorem State.lt_nSess_of_inUse {s : State} {tb : Table} {i : Nat} (h : s.inUse tb i = true) : i < s.nSess tb :=
  ((s.inUse_iff tb i).1 h).1

/-- With a capacity of R7 a slot's number fits in its `socket`. -/
theorem slotNumber_toNat {n i : Nat} (hn : capacityInRange n = true) (hi : i < n) : (BitVec.ofNat 8 i).toNat = i := by
  simp only [capacityInRange, Bool.and_eq_true, decide_eq_true_eq] at hn
  rw [BitVec.toNat_ofNat]
  omega

/-- The slot written is in use when its new `socket` is its own number. -/
theorem State.sessionsUpdated.inUse_self {s t : State} {tb : Table} {i : Nat} {e : Session} (h : s.sessionsUpdated t tb i e) :
    t.inUse tb i = (decide (i < s.nSess tb) && e.socket.toNat == i) := by
  obtain ⟨hn, hat, -, -⟩ := h
  rw [State.inUse, hn, hat]

/-- Every other slot of the table is in use as before. -/
theorem State.sessionsUpdated.inUse_of_ne {s t : State} {tb : Table} {i k : Nat} {e : Session}
    (h : s.sessionsUpdated t tb i e) (hk : k ≠ i) : t.inUse tb k = s.inUse tb k := by
  obtain ⟨hn, -, hudp, htcp⟩ := h
  have hat : t.sessAt tb k = s.sessAt tb k := by
    cases tb with
    | udp => exact hudp k fun hc => hk hc.2
    | tcp => exact congrArg TcpSession.toSession (htcp k fun hc => hk hc.2)
  rw [State.inUse, State.inUse, hn, hat]

end Sys2Proof.Machine
end

section
/-! PROOFS of the family `45_sockets`: the port commands (spec/45_sockets.md rules R233-R235). -/

namespace Sys2Proof.Machine

/-! ### What the commands make of their operand and the search -/

section
variable {s : State} {tb : Table} {port : Half} {j : Nat}

theorem exec_portOpen_of_badPort (h : s.argPort = none) : exec (.portOpen tb) s = raise .badOperand s := by
  simp only [exec, execPortOpen, h]

theorem exec_portOpen_of_registered (h : s.argPort = some port) (hj : s.findApp tb port = some j) :
    exec (.portOpen tb) s = complete .existing { s with res0 := natWord j } := by
  simp only [exec, execPortOpen, h, hj]

theorem exec_portOpen_of_full (h : s.argPort = some port) (hnew : s.findApp tb port = none) (hfull : s.freeApp tb = none) :
    exec (.portOpen tb) s = complete .full { s with res0 := natWord (s.nApp tb) } := by
  simp only [exec, execPortOpen, h, hnew, hfull]

theorem exec_portOpen_of_free (h : s.argPort = some port) (hnew : s.findApp tb port = none) (hj : s.freeApp tb = some j) :
    exec (.portOpen tb) s = complete .ok { s.setApp tb j ⟨port, s.arg1, s.arg2⟩ with res0 := natWord j } := by
  simp only [exec, execPortOpen, h, hnew, hj]

theorem exec_portClose_of_badPort (h : s.argPort = none) : exec (.portClose tb) s = raise .badOperand s := by
  simp only [exec, execPortClose, h]

theorem exec_portClose_of_unregistered (h : s.argPort = some port) (hno : s.findApp tb port = none) :
    exec (.portClose tb) s = complete .miss { s with res0 := natWord (s.nApp tb) } := by
  simp only [exec, execPortClose, h, hno]

theorem exec_portClose_of_registered (h : s.argPort = some port) (hj : s.findApp tb port = some j) :
    exec (.portClose tb) s = complete .ok { s.setApp tb j App.empty with res0 := natWord j } := by
  simp only [exec, execPortClose, h, hj]

theorem exec_portFind_of_badPort (h : s.argPort = none) : exec (.portFind tb) s = raise .badOperand s := by
  simp only [exec, execPortFind, h]

theorem exec_portFind_of_unregistered (h : s.argPort = some port) (hno : s.findApp tb port = none) :
    exec (.portFind tb) s = complete .miss { s with res0 := natWord (s.nApp tb), res1 := 0#32, res2 := 0#32 } := by
  simp only [exec, execPortFind, h, hno]

theorem exec_portFind_of_registered (h : s.argPort = some port) (hj : s.findApp tb port = some j) :
    exec (.portFind tb) s = complete .ok { s with
      res0 := natWord j, res1 := (s.appAt tb j).timeoutMs, res2 := (s.appAt tb j).tag } := by
  simp only [exec, execPortFind, h, hj]

end

/-! ### The statements -/

/-- Settles O51: the operand check, then the two searches in their order, and the slot written. -/
theorem portOpenRegistersOnce : Obligations.PortOpenRegistersOnce := by
  refine ⟨decode_encode (.portOpen .udp), decode_encode (.portOpen .tcp), fun s tb =>
    ⟨fun hbad => exec_portOpen_of_badPort (State.argPort_eq_none hbad), fun port harg hport => ?_⟩⟩
  have hok := State.argPort_eq_some harg hport
  refine ⟨fun j hj => ?_, fun hnew hfull => ?_, fun j hnew hj => ?_⟩
  · exact exec_portOpen_of_registered hok ((s.findApp_eq_some_iff tb port j).2 hj)
  · exact exec_portOpen_of_full hok ((s.findApp_eq_none_iff tb port).2 hnew) ((s.freeApp_eq_none_iff tb).2 hfull)
  · have hexec := exec_portOpen_of_free hok ((s.findApp_eq_none_iff tb port).2 hnew) ((s.freeApp_eq_some_iff tb j).2 hj)
    exact ⟨_, hexec, by rw [State.setApp_frame]; rfl, (State.appsUpdated_setApp _ hj.1).congr rfl rfl⟩

/-- Settles O52: the operand check, then the search, and the slot cleared. -/
theorem portCloseClearsTheRegistration : Obligations.PortCloseClearsTheRegistration := by
  refine ⟨decode_encode (.portClose .udp), decode_encode (.portClose .tcp), fun s tb =>
    ⟨fun hbad => exec_portClose_of_badPort (State.argPort_eq_none hbad), fun port harg hport => ?_⟩⟩
  have hok := State.argPort_eq_some harg hport
  refine ⟨fun hno => ?_, fun j hj => ?_⟩
  · exact exec_portClose_of_unregistered hok ((s.findApp_eq_none_iff tb port).2 hno)
  · have hexec := exec_portClose_of_registered hok ((s.findApp_eq_some_iff tb port j).2 hj)
    exact ⟨_, hexec, by rw [State.setApp_frame]; rfl, (State.appsUpdated_setApp _ hj.1).congr rfl rfl⟩

/-- Settles O53: the operand check, then the search, and the readout of the slot it finds. -/
theorem portFindReadsTheRegistration : Obligations.PortFindReadsTheRegistration := by
  refine ⟨decode_encode (.portFind .udp), decode_encode (.portFind .tcp), fun s tb =>
    ⟨fun hbad => exec_portFind_of_badPort (State.argPort_eq_none hbad), fun port harg hport => ?_⟩⟩
  have hok := State.argPort_eq_some harg hport
  refine ⟨fun hno => ?_, fun j hj => ?_⟩
  · exact exec_portFind_of_unregistered hok ((s.findApp_eq_none_iff tb port).2 hno)
  · exact exec_portFind_of_registered hok ((s.findApp_eq_some_iff tb port j).2 hj)

end Sys2Proof.Machine
end

section
/-! PROOFS of the family `45_sockets`: the session commands (spec/45_sockets.md rules R236-R239), and what they make of a handle
together (R242 item 1). -/

namespace Sys2Proof.Machine

/-! ### What the commands make of their operands and the searches -/

section
variable {s : State} {tb : Table} {lp rp : Half} {i : Nat}

theorem exec_sessAdd_of_held (harg : s.arg1 = lp ++ rp) (hi : s.findTuple tb s.arg0 lp rp = some i) :
    exec (.sessAdd tb) s = complete .existing { s with res0 := natWord (s.nSess tb), res1 := natWord i } := by
  obtain ⟨hlp, hrp⟩ := State.argPorts_eq harg
  simp only [exec, execSessAdd, hlp, hrp, hi]

theorem exec_sessAdd_of_full (harg : s.arg1 = lp ++ rp) (hnew : s.findTuple tb s.arg0 lp rp = none)
    (hfull : s.freeSess tb = none) :
    exec (.sessAdd tb) s = complete .full { s with res0 := natWord (s.nSess tb), res1 := natWord (s.nSess tb) } := by
  obtain ⟨hlp, hrp⟩ := State.argPorts_eq harg
  simp only [exec, execSessAdd, hlp, hrp, hnew, hfull]

theorem exec_sessAdd_of_free (harg : s.arg1 = lp ++ rp) (hnew : s.findTuple tb s.arg0 lp rp = none)
    (hi : s.freeSess tb = some i) :
    exec (.sessAdd tb) s = complete .ok
      { s.newSess tb i ⟨BitVec.ofNat 8 i, s.arg0, lp, rp, s.arg2, s.argClosePort⟩ with
        res0 := natWord i, res1 := natWord (s.nSess tb) } := by
  obtain ⟨hlp, hrp⟩ := State.argPorts_eq harg
  simp only [exec, execSessAdd, hlp, hrp, hnew, hi]

theorem exec_sessLookup_of_new (harg : s.arg1 = lp ++ rp) (hnew : s.findTuple tb s.arg0 lp rp = none) :
    exec (.sessLookup tb) s = complete .miss { s with res0 := natWord (s.nSess tb) } := by
  obtain ⟨hlp, hrp⟩ := State.argPorts_eq harg
  simp only [exec, execSessLookup, hlp, hrp, hnew]

theorem exec_sessLookup_of_held (harg : s.arg1 = lp ++ rp) (hi : s.findTuple tb s.arg0 lp rp = some i) :
    exec (.sessLookup tb) s = complete .ok { s with res0 := natWord i } := by
  obtain ⟨hlp, hrp⟩ := State.argPorts_eq harg
  simp only [exec, execSessLookup, hlp, hrp, hi]

end

section
variable {s : State} {tb : Table}

theorem exec_sessRemove_of_unused (h : s.inUse tb s.arg0.toNat = false) :
    exec (.sessRemove tb) s = complete .miss { s with res0 := 0#32 } := by
  simp only [exec, execSessRemove, h, Bool.false_eq_true, if_false]

theorem exec_sessRemove_of_noPort (h : s.inUse tb s.arg0.toNat = true) (hport : s.portToClose tb s.arg0.toNat = none) :
    exec (.sessRemove tb) s = complete .ok { s.freeSlot tb s.arg0.toNat with res0 := 0#32 } := by
  simp only [exec, execSessRemove, h, if_true, hport]

theorem exec_sessRemove_of_port {j : Nat} (h : s.inUse tb s.arg0.toNat = true)
    (hport : s.portToClose tb s.arg0.toNat = some j) :
    exec (.sessRemove tb) s =
      complete .ok { (s.freeSlot tb s.arg0.toNat).setApp tb j App.empty with res0 := 1#32 } := by
  simp only [exec, execSessRemove, h, if_true, hport]

theorem exec_sessGet_of_unused (h : s.inUse tb s.arg0.toNat = false) :
    exec (.sessGet tb) s = complete .miss { s with res0 := 0#32, res1 := 0#32, res2 := 0#32, res3 := 0#32 } := by
  simp only [exec, execSessGet, h, Bool.false_eq_true, if_false]

theorem exec_sessGet_of_inUse {e : Session} (h : s.inUse tb s.arg0.toNat = true) (he : e = s.sessAt tb s.arg0.toNat) :
    exec (.sessGet tb) s = complete .ok { s with
      res0 := e.remoteIp, res1 := pairWord e.localPort e.remotePort, res2 := e.timeoutMs, res3 := bitWord e.closePort } := by
  subst he
  simp only [exec, execSessGet, h, if_true]

end

/-! ### The application a removed session closes (R237) -/

theorem State.portToClose_eq_some_iff (s : State) (tb : Table) (h j : Nat) :
    s.portToClose tb h = some j ↔
      (s.sessAt tb h).closePort = true ∧ LeastIndex (s.nApp tb) (s.appHolds tb (s.sessAt tb h).localPort) j := by
  rw [← State.findApp_eq_some_iff, State.portToClose]
  split <;> simp [*]

theorem State.portToClose_eq_none_iff (s : State) (tb : Table) (h : Nat) :
    s.portToClose tb h = none ↔
      (s.sessAt tb h).closePort = false ∨ NoIndex (s.nApp tb) (s.appHolds tb (s.sessAt tb h).localPort) := by
  rw [← State.findApp_eq_none_iff, State.portToClose]
  split <;> simp [*]

/-- Closing an application and freeing a session write different tables. -/
theorem State.setApp_freeSlot (s : State) (tb : Table) (h j : Nat) (a : App) :
    (s.freeSlot tb h).setApp tb j a = (s.setApp tb j a).freeSlot tb h := by
  cases tb <;> rfl

/-! ### The statements -/

/-- Settles O54: the two searches in their order, and the slot written. -/
theorem sessAddTakesTheLowestFreeSlot : Obligations.SessAddTakesTheLowestFreeSlot := by
  refine ⟨decode_encode (.sessAdd .udp), decode_encode (.sessAdd .tcp), fun s tb lp rp harg =>
    ⟨fun h hh => ?_, fun hnew hfull => ?_, fun i hnew hi => ?_⟩⟩
  · exact exec_sessAdd_of_held harg ((s.findTuple_eq_some_iff tb s.arg0 lp rp h).2 hh)
  · exact exec_sessAdd_of_full harg ((s.findTuple_eq_none_iff tb s.arg0 lp rp).2 hnew) ((s.freeSess_eq_none_iff tb).2 hfull)
  · have hexec := exec_sessAdd_of_free harg ((s.findTuple_eq_none_iff tb s.arg0 lp rp).2 hnew)
      ((s.freeSess_eq_some_iff tb i).2 hi)
    refine ⟨_, hexec, by rw [State.newSess_frame]; rfl, (State.sessionsUpdated_newSess _ hi.1).congr rfl rfl, ?_⟩
    rintro rfl
    have hat := s.tcpAt_newSess .tcp i i ⟨BitVec.ofNat 8 i, s.arg0, lp, rp, s.arg2, s.argClosePort⟩
    rw [if_pos ⟨rfl, rfl, hi.1⟩] at hat
    exact ⟨congrArg TcpSession.lastSeq hat, congrArg TcpSession.lastAck hat, congrArg TcpSession.connState hat,
      congrArg TcpSession.pendingAck hat, congrArg TcpSession.pendingPush hat⟩

/-- Settles O55: the slot is freed, and the port of its session closed when `State.portToClose` finds one. -/
theorem sessRemoveFreesTheSlot : Obligations.SessRemoveFreesTheSlot := by
  refine ⟨decode_encode (.sessRemove .udp), decode_encode (.sessRemove .tcp), ?_⟩
  rintro s tb h rfl
  refine ⟨exec_sessRemove_of_unused, fun hin => ?_⟩
  have hlt := State.lt_nSess_of_inUse hin
  have hsess := State.sessionsUpdated_freeSlot hlt
  cases hport : s.portToClose tb s.arg0.toNat with
  | none =>
    refine ⟨_, exec_sessRemove_of_noPort hin hport, by rw [State.freeSlot_frame], hsess.congr rfl rfl, ?_,
      fun j hclose hj => ?_, fun _ => ⟨rfl, State.freeSlot_appUdp .., State.freeSlot_appTcp ..⟩⟩
    · rintro rfl
      exact State.tcpAt_freeSlot hlt
    · have hsome := (s.portToClose_eq_some_iff tb _ j).2 ⟨hclose, hj⟩
      rw [hport] at hsome
      cases hsome
  | some k =>
    obtain ⟨hclose, hk⟩ := (s.portToClose_eq_some_iff tb _ k).1 hport
    refine ⟨_, exec_sessRemove_of_port hin hport, by rw [State.setApp_frame, State.freeSlot_frame],
      hsess.congr (State.setApp_udp ..) (State.setApp_tcp ..), ?_, fun j _ hj => ⟨rfl, ?_⟩, fun hnone => ?_⟩
    · rintro rfl
      exact State.tcpAt_freeSlot hlt
    · obtain rfl := LeastIndex_unique hk hj
      refine (State.appsUpdated_setApp App.empty hk.1).congr ?_ ?_ <;> rw [State.setApp_freeSlot]
      · exact State.freeSlot_appUdp ..
      · exact State.freeSlot_appTcp ..
    · rw [(s.portToClose_eq_none_iff tb _).2 hnone] at hport
      cases hport

/-- Settles O56: the check of the handle, and the readout of the session. -/
theorem sessGetReadsOnlyInUseSlots : Obligations.SessGetReadsOnlyInUseSlots :=
  ⟨decode_encode (.sessGet .udp), decode_encode (.sessGet .tcp), fun _ _ _ he =>
    ⟨exec_sessGet_of_unused, fun hin => exec_sessGet_of_inUse hin he⟩⟩

/-- Settles O57: the search for the tuple. -/
theorem sessLookupFindsTheTuple : Obligations.SessLookupFindsTheTuple := by
  refine ⟨decode_encode (.sessLookup .udp), decode_encode (.sessLookup .tcp), fun s tb lp rp harg =>
    ⟨fun hnew => ?_, fun h hh => ?_⟩⟩
  · exact exec_sessLookup_of_new harg ((s.findTuple_eq_none_iff tb s.arg0 lp rp).2 hnew)
  · exact exec_sessLookup_of_held harg ((s.findTuple_eq_some_iff tb s.arg0 lp rp h).2 hh)

/-- Settles O60: by O55 the slot holds the sentinel, so by O56 the handle is stale; it is then the lowest free one, so by O54 the
next SESS_ADD takes it. -/
theorem removedHandleIsStaleThenReused : Obligations.RemovedHandleIsStaleThenReused := by
  rintro s tb h hinv rfl hin
  obtain ⟨-, -, hremove⟩ := sessRemoveFreesTheSlot
  obtain ⟨t, hexec, hframe, hfreed, -⟩ := (hremove s tb _ rfl).2 hin
  have hcap := hinv.sessCapacity tb
  have hlt := State.lt_nSess_of_inUse hin
  have hstale : t.inUse tb s.arg0.toNat = false := by
    rw [hfreed.inUse_self, sentinel_toNat hcap, beq_false_of_ne (Nat.ne_of_gt hlt), Bool.and_false]
  refine ⟨t, hexec, ?_, fun rip lp rp hlower hnew => ?_⟩
  · rw [← congrArg State.arg0 hframe] at hstale
    exact ⟨_, exec_sessGet_of_unused hstale, rfl⟩
  · have hleast : LeastIndex (t.nSess tb) (fun i => t.inUse tb i = false) s.arg0.toNat := by
      refine ⟨(hfreed.1 tb).symm ▸ hlt, hstale, fun i hi => ?_⟩
      simp [hfreed.inUse_of_ne (Nat.ne_of_lt hi), hlower i hi]
    obtain ⟨-, -, hadd⟩ := sessAddTakesTheLowestFreeSlot
    obtain ⟨-, -, hfree⟩ := hadd { t with arg0 := rip, arg1 := lp ++ rp } tb lp rp rfl
    obtain ⟨v, hv, hvframe, htaken, -⟩ := hfree _ hnew hleast
    refine ⟨v, hv, congrArg State.rc hvframe, congrArg State.res0 hvframe, ?_⟩
    rw [htaken.inUse_self, slotNumber_toNat hcap hlt, beq_self_eq_true, Bool.and_true]
    exact decide_eq_true hleast.1

end Sys2Proof.Machine
end

section
/-! PROOFS of the family `45_sockets`: the bookkeeping of TCP sessions (spec/45_sockets.md rules R240, R241), with the
connection states of spec/30_encoding.md rule R96. -/

namespace Sys2Proof.Machine

/-! ### Connection states (R96) -/

theorem ConnState.ofCode_code (st : ConnState) : ConnState.ofCode st.code = some st := by
  cases st <;> rfl

/-- The codes 5, 6 and 7 are reserved. -/
theorem ConnState.ofCode_of_gt : ∀ c : BitVec 3, 4 < c.toNat → ConnState.ofCode c = none := by
  decide

/-- Every code up to 4 is the code of a connection state. -/
theorem ConnState.exists_code_eq {n : Nat} (h : n ≤ 4) : ∃ st : ConnState, st.code.toNat = n := by
  match n, h with
  | 0, _ => exact ⟨.handshakeOutgoing, rfl⟩
  | 1, _ => exact ⟨.handshakeIncoming, rfl⟩
  | 2, _ => exact ⟨.connected, rfl⟩
  | 3, _ => exact ⟨.terminationOutgoing, rfl⟩
  | 4, _ => exact ⟨.terminationIncoming, rfl⟩

/-- R85: the state code is the low three bits of ARG3. -/
theorem stateCode_toNat (w : Word) : (w.extractLsb' 0 3).toNat = w.toNat % 8 := by
  rw [BitVec.extractLsb'_toNat, Nat.shiftRight_zero]

theorem State.argConnState_eq_none {s : State} (h : 4 < s.arg3.toNat % 8) : s.argConnState = none :=
  ConnState.ofCode_of_gt _ (by rwa [stateCode_toNat])

theorem State.argConnState_eq_some {s : State} {st : ConnState} (h : st.code.toNat = s.arg3.toNat % 8) :
    s.argConnState = some st := by
  have hcode : s.arg3.extractLsb' 0 3 = st.code := BitVec.eq_of_toNat_eq (by rw [stateCode_toNat, h])
  rw [State.argConnState, hcode, ConnState.ofCode_code]

/-- TCP_GET's RES2 as a number (R241). -/
theorem tcpFlagsWord_eq_ofNat (e : TcpSession) :
    tcpFlagsWord e =
      BitVec.ofNat 32 (e.connState.code.toNat + e.pendingAck.toNat * 2 ^ 4 + e.pendingPush.toNat * 2 ^ 5) := by
  apply BitVec.eq_of_toNat_eq
  simp only [tcpFlagsWord, append_toNat, BitVec.toNat_ofNat, BitVec.toNat_ofBool]
  have := e.connState.code.isLt
  have := e.pendingAck.toNat_lt
  have := e.pendingPush.toNat_lt
  omega

/-! ### What the commands make of the code and the handle -/

section
variable {s : State}

theorem exec_tcpSet_of_badState (h : s.argConnState = none) : exec .tcpSet s = raise .badOperand s := by
  simp only [exec, execTcpSet, h]

theorem exec_tcpSet_of_unused {st : ConnState} (hst : s.argConnState = some st)
    (h : s.inUse .tcp s.arg0.toNat = false) : exec .tcpSet s = complete .miss s := by
  simp only [exec, execTcpSet, hst, h, Bool.false_eq_true, if_false]

theorem exec_tcpSet_of_inUse {st : ConnState} (hst : s.argConnState = some st) (h : s.inUse .tcp s.arg0.toNat = true) :
    exec .tcpSet s = complete .ok { s with
      tcp := s.tcp.set s.arg0.toNat { s.tcpAt s.arg0.toNat with
        lastSeq := s.arg1, lastAck := s.arg2, connState := st
        pendingAck := s.arg3.getLsbD 4, pendingPush := s.arg3.getLsbD 5 } } := by
  simp only [exec, execTcpSet, hst, h, if_true]

theorem exec_tcpGet_of_unused (h : s.inUse .tcp s.arg0.toNat = false) :
    exec .tcpGet s = complete .miss { s with res0 := 0#32, res1 := 0#32, res2 := 0#32 } := by
  simp only [exec, execTcpGet, h, Bool.false_eq_true, if_false]

theorem exec_tcpGet_of_inUse {e : TcpSession} (h : s.inUse .tcp s.arg0.toNat = true) (he : e = s.tcpAt s.arg0.toNat) :
    exec .tcpGet s = complete .ok { s with res0 := e.lastSeq, res1 := e.lastAck, res2 := tcpFlagsWord e } := by
  subst he
  simp only [exec, execTcpGet, h, if_true]

end

/-! ### The statements -/

/-- Settles O58: the state code is tested before the handle; the slot then takes the five fields. -/
theorem tcpSetWritesTheBookkeeping : Obligations.TcpSetWritesTheBookkeeping := by
  refine ⟨decode_encode .tcpSet, ⟨rfl, rfl, rfl, rfl, rfl⟩, ?_⟩
  rintro s h rfl
  refine ⟨fun hbad => ?_, fun hcode hunused => ?_, fun st hst hin => ?_⟩
  · exact exec_tcpSet_of_badState (State.argConnState_eq_none hbad)
  · obtain ⟨st, hst⟩ := ConnState.exists_code_eq hcode
    exact exec_tcpSet_of_unused (State.argConnState_eq_some hst) hunused
  · have hlt := State.lt_nSess_of_inUse hin
    refine ⟨_, exec_tcpSet_of_inUse (State.argConnState_eq_some hst) hin, rfl,
      State.sessionsUpdated_tcpSet rfl rfl rfl, (s.tcpAt_tcpSet _ _ _).trans (if_pos ⟨rfl, hlt⟩)⟩

/-- Settles O59: the check of the handle, and the readout of the fields. -/
theorem tcpGetReadsTheBookkeeping : Obligations.TcpGetReadsTheBookkeeping := by
  refine ⟨decode_encode .tcpGet, fun s e he => ⟨exec_tcpGet_of_unused, fun hin => ?_⟩⟩
  rw [exec_tcpGet_of_inUse hin he, tcpFlagsWord_eq_ofNat]
  rfl

end Sys2Proof.Machine
end

section
/-! PROOFS of the family `60_exceptions`: how a command ends (spec/60_exceptions.md rules R270-R272, R274). -/

namespace Sys2Proof.Machine

/-! ### The ways to end -/

/-- What can be left of a command that started in `s`: one constructor per group of codes (R14, R87). -/
inductive CommandEnd (s : State) : State → Prop
  /-- Any write stands with RC = OK (R272). -/
  | success (u : State) : CommandEnd s { u with rc := .ok, busy := false }
  /-- An outcome, with no more than a report in RES0..RES3 (R272). -/
  | outcome (c : ResultCode) (r : Report) (hc : c.isError = false) : CommandEnd s (s.reporting c r)
  /-- An error, with no write at all (R271). -/
  | error (c : ResultCode) (hc : c.isError = true) : CommandEnd s { s with rc := c, busy := false }

/-- R271: an error leaves everything but RC and BUSY as it was. -/
theorem CommandEnd.eq_of_isError {s t : State} (e : CommandEnd s t) (h : t.rc.isError = true) :
    t = { s with rc := t.rc, busy := false } := by
  cases e with
  | success u => exact absurd h Bool.false_ne_true
  | outcome c r hc => exact absurd (hc.symm.trans h) Bool.false_ne_true
  | error c hc => rfl

/-- R272: an outcome other than OK leaves everything but RES0..RES3, RC and BUSY as it was. -/
theorem CommandEnd.eq_of_unsuccessful {s t : State} (e : CommandEnd s t) (h : t.rc.isError = false) (hok : t.rc ≠ .ok) :
    t = { s with res0 := t.res0, res1 := t.res1, res2 := t.res2, res3 := t.res3, rc := t.rc, busy := false } := by
  cases e with
  | success u => exact absurd rfl hok
  | outcome c r hc => rfl
  | error c hc => exact absurd (h.symm.trans hc) Bool.false_ne_true

/-- Whatever next state the answer of a command that started in `s` holds is one of the ways to end. -/
def State.Ends (s : State) (o : Host.Outcome State Fault Refusal) : Prop :=
  ∀ t, o = .next t → CommandEnd s t

theorem State.Ends.success {s u : State} : s.Ends (complete .ok u) := by
  intro t ht
  rw [complete_eq_next ht]
  exact .success u

theorem State.Ends.outcome {s v : State} {c : ResultCode} (hc : c.isError = false)
    (hv : v = { s with res0 := v.res0, res1 := v.res1, res2 := v.res2, res3 := v.res3 }) : s.Ends (complete c v) := by
  intro t ht
  rw [complete_eq_next ht, hv]
  exact .outcome c ⟨v.res0, v.res1, v.res2, v.res3⟩ hc

theorem State.Ends.error {s : State} {c : ResultCode} (hc : c.isError = true) : s.Ends (raise c s) := by
  intro t ht
  rw [raise_eq_next ht]
  exact .error c hc

/-! ### Every command ends in one of them -/

/-- R162: an insert that stores nothing changes nothing. -/
theorem State.eq_of_arpInsert_eq_none {s t : State} {ip : IPv4} {mac : Mac} (h : s.arpInsert ip mac = (t, none)) : t = s := by
  obtain ⟨-, hins⟩ | ⟨i, -, -, hins⟩ | ⟨j, -, -, -, hins⟩ | ⟨-, -, -, hins⟩ := s.arpInsert_cases ip mac
  · cases hins.symm.trans h; rfl
  · cases hins.symm.trans h
  · cases hins.symm.trans h
  · cases hins.symm.trans h; rfl

/-- R165: ARP_ADD reports FULL only when it stored nothing. -/
theorem execArpAdd_ends (s : State) : s.Ends (execArpAdd s) := by
  simp only [execArpAdd]
  split
  · exact .error rfl
  · split
    · exact .success
    · next hins => rw [State.eq_of_arpInsert_eq_none hins]; exact .outcome rfl rfl

/-- R167: ARP_RESOLVE only reports, whichever its code. -/
theorem execArpResolve_ends (s : State) : s.Ends (execArpResolve s) :=
  .outcome (by split <;> rfl) rfl

/-- R271, R272: every command ends with success, an outcome that only reports, or an error. The commands are grouped by the
order of their tests. -/
theorem exec_ends (i : Instr) (s : State) : s.Ends (exec i s) := by
  cases i with
  | nop | reset | bufRelease | csumInit | csumAddw | csumFinal | arpTick | arpStat => exact .success
  | arpAdd => exact execArpAdd_ends s
  | arpResolve => exact execArpResolve_ends s
  | bufRd | bufWr | arpSlot =>
    simp only [exec, execBufRd, execBufWr, execArpSlot]
    split
    · exact .error rfl
    · exact .success
  | csumAdd | csum =>
    simp only [exec, execCsumAdd, execCsum]
    split
    · exact .success
    · exact .error rfl
  | classify | arpReq | ipTxHdr =>
    simp only [exec, execClassify, execArpReq, execIpTxHdr]
    split
    · exact .error rfl
    · split
      · exact .error rfl
      · exact .success
  | arpGet | sessLookup =>
    simp only [exec, execArpGet, execSessLookup]
    split
    · exact .outcome rfl rfl
    · exact .success
  | sessGet | tcpGet =>
    simp only [exec, execSessGet, execTcpGet]
    split
    · exact .success
    · exact .outcome rfl rfl
  | portOpen =>
    simp only [exec, execPortOpen]
    split
    · exact .error rfl
    · split
      · exact .outcome rfl rfl
      · split
        · exact .outcome rfl rfl
        · exact .success
  | portClose | portFind =>
    simp only [exec, execPortClose, execPortFind]
    split
    · exact .error rfl
    · split
      · exact .outcome rfl rfl
      · exact .success
  | sessAdd =>
    simp only [exec, execSessAdd]
    split
    · exact .outcome rfl rfl
    · split
      · exact .outcome rfl rfl
      · exact .success
  | sessRemove =>
    simp only [exec, execSessRemove]
    split
    · split
      · exact .success
      · exact .success
    · exact .outcome rfl rfl
  | tcpSet =>
    simp only [exec, execTcpSet]
    split
    · exact .error rfl
    · split
      · exact .success
      · exact .outcome rfl rfl

/-- R274: a word that decodes to no command ends with ILLEGAL, an error like any other. -/
theorem runCommand_ends (w : Word) (s : State) : s.Ends (runCommand w s) := by
  simp only [runCommand]
  split
  · exact exec_ends _ s
  · exact .error rfl

/-! ### The statements -/

/-- Settles O4: the block's turn, which comes by itself or from the list, is the command's. -/
theorem stepRunsTheDecodedCommand : Obligations.StepRunsTheDecodedCommand := by
  refine fun s i hb hd => ⟨fun hi => ?_, fun rest hi => ?_⟩
  · rw [step_of_inputs_nil hi, blockTurn_of_decode hb hd]
  · rw [step_of_blockRuns hi, blockTurn_of_decode (s := { s with inputs := rest }) hb hd]

/-- Settles O11: every path of every command ends in `complete` or `raise`. -/
theorem everyCommandCompletes : Obligations.EveryCommandCompletes := exec_completes

/-- Settles O12: of the ways to end, only `CommandEnd.error` has an error code. -/
theorem errorCodeMeansNothingElseChanged : Obligations.ErrorCodeMeansNothingElseChanged := by
  refine ⟨rfl, rfl, rfl, fun w s t ht hrc => (runCommand_ends w s t ht).eq_of_isError ?_⟩
  obtain hrc | hrc | hrc := hrc <;> rw [hrc] <;> rfl

/-- Settles O13: of the ways to end, only `CommandEnd.outcome` has one of these codes. -/
theorem unsuccessfulOutcomeChangesNoTable : Obligations.UnsuccessfulOutcomeChangesNoTable := by
  intro i s t ht hrc
  obtain ⟨houtcome, hok⟩ : t.rc.isError = false ∧ t.rc ≠ .ok := by
    obtain hrc | hrc | hrc := hrc <;> rw [hrc] <;> decide
  exact (exec_ends i s t ht).eq_of_unsuccessful houtcome hok

end Sys2Proof.Machine
end

section
/-! PROOFS of the family `60_exceptions`: the overrun flag (spec/60_exceptions.md rule R275, spec/70_reset_and_hazards.md rule
R300). -/

namespace Sys2Proof.Machine

/-- R275: a CMD write while BUSY = 1 sets OVR and does nothing else. -/
theorem State.hostWrite_cmd_busy {s : State} (hb : s.busy = true) (v : Word) :
    s.hostWrite .cmd v = .next { s with ovr := true } := by
  simp only [State.hostWrite, Reg.lockedWhileBusy, Bool.and_false, State.regWrite, hb, if_true, Bool.false_eq_true, if_false]

/-- R24: of the host's writes only one of STATUS with bit 16 set clears OVR. -/
theorem State.regWrite_clears_ovr {s : State} {r : Reg} {v : Word} (hs : s.ovr = true) (ht : (s.regWrite r v).ovr = false) :
    r = .status ∧ v.getLsbD 16 = true := by
  have hkept : s.ovr ≠ false := by rw [hs]; decide
  cases r with
  | cmd =>
    simp only [State.regWrite] at ht
    split at ht
    · cases ht
    · exact absurd ht hkept
  | status =>
    simp only [State.regWrite] at ht
    split at ht
    · exact ⟨rfl, ‹_›⟩
    · exact absurd ht hkept
  | _ => exact absurd ht hkept

/-- A host access that clears OVR is a write of STATUS with bit 16 set. -/
theorem hostTurn_clears_ovr {a : HostAccess} {s t : State} (h : hostTurn a s = .next t) (hs : s.ovr = true)
    (ht : t.ovr = false) : ∃ v, a = .write (s.fixed.base + 4) 4 v ∧ v.getLsbD 16 = true := by
  obtain ⟨off, -, -, -, rfl⟩ | ⟨off, v, -, -, rfl, -, rfl⟩ := hostTurn_cases h
  · rw [s.hostRead_frame, hs] at ht
    cases ht
  · obtain ⟨hr, hv⟩ := State.regWrite_clears_ovr hs ht
    exact ⟨v, by rw [Reg.ofOffset_eq_status hr], hv⟩

/-- A block's turn that clears OVR completes a RESET (R300). -/
theorem blockTurn_clears_ovr {s t : State} (h : blockTurn s = .next t) (hs : s.ovr = true) (ht : t.ovr = false) :
    s.busy = true ∧ decode s.cmd = .ok .reset := by
  obtain ⟨-, rfl⟩ | ⟨hb, i, hd, hexec⟩ | ⟨-, -, rfl⟩ := blockTurn_cases h
  · cases hs.symm.trans ht
  · rw [exec_ovr hexec] at ht
    split at ht
    · next hi => exact ⟨hb, hi ▸ hd⟩
    · cases hs.symm.trans ht
  · cases hs.symm.trans ht

/-- Settles O5: the lost write, then the kinds of turn and what each needs to clear OVR. -/
theorem overrunFlagLastsUntilCleared : Obligations.OverrunFlagLastsUntilCleared := by
  refine ⟨fun s v rest hi hb => ?_, fun s t hs h ht => ?_⟩
  · rw [step_writeReg (r := .cmd) hi, State.hostWrite_cmd_busy (s := { s with inputs := rest }) hb]
  · obtain ⟨hi, hblock⟩ | ⟨rest, hi, hblock⟩ | ⟨a, rest, hi, hhost⟩ | ⟨rest, hi, -⟩ := step_cases h
    · obtain ⟨hb, hd⟩ := blockTurn_clears_ovr hblock hs ht
      exact .inr (.inl ⟨hb, hd, .inl hi⟩)
    · obtain ⟨hb, hd⟩ := blockTurn_clears_ovr hblock hs ht
      exact .inr (.inl ⟨hb, hd, .inr ⟨rest, hi⟩⟩)
    · obtain ⟨v, rfl, hv⟩ := hostTurn_clears_ovr hhost hs ht
      exact .inl ⟨v, rest, hi, hv⟩
    · exact .inr (.inr ⟨rest, hi⟩)

end Sys2Proof.Machine
end

section
/-! PROOFS of the family `70_reset_and_hazards`: the host accesses at which the model stops (spec/70_reset_and_hazards.md rule
R303, spec/20_memory.md rule R64). -/

namespace Sys2Proof.Machine

/-! ### Locked registers -/

/-- The registers the host must not write while BUSY = 1 (R303, U1), in the order of R80. -/
def lockedRegs : List Reg := [.arg0, .arg1, .arg2, .arg3, .macHi, .macLo, .localIp, .netmask, .gateway]

theorem Reg.mem_lockedRegs (r : Reg) : r ∈ lockedRegs ↔ r.lockedWhileBusy = true := by
  cases r <;> decide

/-- R303, U1: while BUSY = 1 a write of a locked register has no meaning, whatever the value (log 10). -/
theorem State.hostWrite_locked {s : State} {r : Reg} (hb : s.busy = true) (hr : r.lockedWhileBusy = true) (v : Word) :
    s.hostWrite r v = .fault .hostWriteWhileBusy := by
  rw [State.hostWrite, hb, hr]
  rfl

/-! ### Accesses that are not aligned words -/

theorem hostAccessWf_eq_false {off size : Nat} (h : size ≠ 4 ∨ off % 4 ≠ 0) : hostAccessWf off size = false := by
  simpa only [hostAccessWf, Bool.and_eq_false_iff, beq_eq_false_iff_ne] using h

/-- R64, U3: inside the register block only an aligned word reaches a register. -/
theorem State.hostTarget_notAWord (s : State) {off size : Nat} (h : off < 256) (hbad : size ≠ 4 ∨ off % 4 ≠ 0) :
    s.hostTarget (s.fixed.base + off) size = .error .hostAccessNotAWord := by
  rw [s.hostTarget_inside h, hostAccessWf_eq_false hbad]
  rfl

theorem step_of_host {s : State} {a : HostAccess} {rest : List Input} (hi : s.inputs = .host a :: rest) :
    step s = hostTurn a { s with inputs := rest } := by
  simp only [step, nextTurn, hi, takeTurn]

theorem hostTurn_read_refused {s : State} {addr size : Nat} {e : Refusal} (h : s.hostTarget addr size = .error e) :
    hostTurn (.read addr size) s = .refused e := by
  simp only [hostTurn, h]

theorem hostTurn_write_refused {s : State} {addr size : Nat} {v : Word} {e : Refusal} (h : s.hostTarget addr size = .error e) :
    hostTurn (.write addr size v) s = .refused e := by
  simp only [hostTurn, h]

/-! ### The statement -/

/-- Settles O7: the offsets listed are those of the locked registers, whose write is the fault; and an access that is not an
aligned word has no target, so that its read and its write are refused alike. -/
theorem hostAccessesOutsideTheContractStop : Obligations.HostAccessesOutsideTheContractStop := by
  refine ⟨fun s off v rest hoff hb hi => ?_, fun s off size v rest hoff hbad => ?_⟩
  · obtain ⟨r, hr, rfl⟩ : ∃ r ∈ lockedRegs, r.offset = off := List.mem_map.1 hoff
    rw [step_writeReg hi, State.hostWrite_locked (s := { s with inputs := rest }) hb (r.mem_lockedRegs.1 hr)]
  · have htarget := State.hostTarget_notAWord { s with inputs := rest } hoff hbad
    exact ⟨fun hi => (step_of_host hi).trans (hostTurn_read_refused htarget),
      fun hi => (step_of_host hi).trans (hostTurn_write_refused htarget)⟩

end Sys2Proof.Machine
end

section
/-! PROOFS of the family `70_reset_and_hazards`: the two resets (spec/70_reset_and_hazards.md rules R300, R301). Both are
`State.clear`; what a byte of BUF holds after each is read off the bytes written and the number of the power-on. -/

namespace Sys2Proof.Machine

theorem step_of_powerCycle {s : State} {rest : List Input} (hi : s.inputs = .powerCycle :: rest) :
    step s = .next ({ s with inputs := rest } : State).powerCycle := by
  simp only [step, nextTurn, hi, takeTurn]

/-- The turns still to come survive a power cycle; all else is RESET's state but for BUF and the count of power-ons (R301). -/
theorem State.powerCycle_with_inputs (s : State) (rest : List Input) :
    ({ s with inputs := rest } : State).powerCycle =
      { s.clear with inputs := rest, buf := [], powerOns := s.powerOns + 1 } := rfl

/-- R301: RESET leaves BUF as it is. -/
theorem State.bufByte_clear (s : State) (a : Nat) : s.clear.bufByte a = s.bufByte a := State.bufByte_congr rfl rfl a

/-- U4: a byte that nothing has written since power-on holds that power-on's free value. -/
theorem State.bufByte_of_buf_nil {s : State} (h : s.buf = []) (a : Nat) :
    s.bufByte a = Config.powerOnByte s.powerOns a := by
  rw [State.bufByte, h, Memory.get_nil, Option.getD_none]

/-- Settles O20: the state of RESET and the state of the power cycle, then BUF after each. -/
theorem powerCycleDiffersFromResetOnlyInBuf : Obligations.PowerCycleDiffersFromResetOnlyInBuf := by
  intro s rest hi
  refine ⟨s.clear, { s.clear with inputs := rest, buf := [], powerOns := s.powerOns + 1 }, exec_reset s, ?_, rfl,
    s.bufByte_clear, State.bufByte_of_buf_nil rfl⟩
  rw [step_of_powerCycle hi, s.powerCycle_with_inputs]

end Sys2Proof.Machine
end
